-- ==== Sys2Proof/Word.lean ====
section
/-! DEFINITION. The two bit-vector types of the block: a byte (8 bits) and a register word (32 bits). -/

namespace Sys2Proof

/-- "A byte is 8 bits, an unsigned value 0..255." (spec/00_scope.md R6) -/
abbrev Byte := BitVec 8

/-- "A word is 32 bits, an unsigned value 0..2^32-1." (spec/00_scope.md R6) -/
abbrev Word := BitVec 32

end Sys2Proof
end

