-- ==== Sys2Proof/Config.lean ====
section
/-! DEFINITION. What an implementation of the block fixes (the parameters of spec/00_scope.md R5) and the
free value of spec/70_reset_and_hazards.md R209. -/

namespace Sys2Proof

/-- The parameters of R5. "A model takes each OPEN parameter as an argument": State carries them in its field
`cfg`, which no step changes, so a claim about every state is a claim about every choice of parameters
(log entry 1). Their constraints are `Params.ok` in WellFormed.lean. -/
structure Params where
  /-- IBUF_SIZE, bytes in the input buffer. -/
  ibufSize : Nat
  /-- OBUF_SIZE, bytes in the output buffer. -/
  obufSize : Nat
  /-- MAX_DATA, largest data field of one chunk, in bytes. -/
  maxData : Nat
  /-- MAX_CHUNKS, most chunks the chunk store holds. -/
  maxChunks : Nat
  /-- STORE_BYTES, most data bytes, summed over all stored chunks. -/
  storeBytes : Nat
  /-- REG_BASE, where the platform places the register space. -/
  regBase : Nat
  /-- IBUF_BASE, where the platform places IBUF. -/
  ibufBase : Nat
  /-- OBUF_BASE, where the platform places OBUF. -/
  obufBase : Nat
  deriving DecidableEq, Repr

/-- DESIGN CHOICE (log entry 1): the parameters State.reset carries. The sizes are those of the test vectors
(spec/95_test_vectors.md: IBUF_SIZE = 256, OBUF_SIZE = 256, MAX_DATA = 64, MAX_CHUNKS = 4, STORE_BYTES = 128).
The three bases are the model's own numbers; "No rule depends on them" (R40). -/
def Config.vectorParams : Params where
  ibufSize := 256
  obufSize := 256
  maxData := 64
  maxChunks := 4
  storeBytes := 128
  regBase := 0
  ibufBase := 0x1000
  obufBase := 0x2000

/-- FREE VALUE (log entry 5): the value of the `n`-th draw. A host read while BUSY = 1 of anything R209 does not
list as exact "return[s] a draw, any value", and "a model quantifies over every drawn value". It has no body, so
nothing can be proved about a drawn value. -/
opaque Config.draw : Nat → Word

end Sys2Proof
end

