-- ==== Sys2Proof/Syntax.lean ====
section
/-! DEFINITION. The commands of the block: one constructor per row of spec/opcode_table.json, and the fields of a
command word (spec/30_encoding.md R60). -/

namespace Sys2Proof

/-- A command (spec/30_encoding.md R67). The only operand a command word carries is IMM, in the two class I
commands (R64). -/
inductive Instr where
  | nop
  | crcInit
  | crcByte (imm : Byte)
  | crcBuf
  | crcFinal
  | crcChecksum
  | crcTable (imm : Byte)
  | typeLoad
  | typeLoadText
  | typeIsCritical
  | typeIsPublic
  | typeIsReservedValid
  | typeIsSafeToCopy
  | typeIsValid
  | typeBytes
  | typeText
  | chunkBuild
  | chunkParse
  | chunkLength
  | chunkCrc
  | chunkType
  | chunkTypeText
  | chunkDataText
  | chunkSerialize
  | pngParse
  | pngAppend
  | pngFind
  | pngRemove
  | pngCount
  | pngGet
  | pngSerialize
  | errClear
  deriving DecidableEq, Repr

/-- The two format classes of R60: N (IMM must be 0) and I (IMM is an operand). -/
inductive Format where
  | n
  | i
  deriving DecidableEq, Repr

/-- The three fields of a command word (R60): OPC bits 7..0, IMM bits 15..8, RSV bits 31..16. -/
structure CommandFields where
  opc : Byte
  imm : Byte
  rsv : BitVec 16
  deriving DecidableEq, Repr

/-- Why a word is illegal: the three cases of spec/30_encoding.md R66. -/
inductive IllegalWord where
  /-- "a word whose OPC is not in rule R67" -/
  | unassignedOpcode
  /-- "a word with a nonzero RSV" -/
  | reservedBitsSet
  /-- "an N-class word with a nonzero IMM" -/
  | immediateNotZero
  deriving DecidableEq, Repr

/-- What decoding answers: "every 32-bit word is either exactly one command or illegal" (R65). -/
inductive Decoded where
  | command (i : Instr)
  | illegal (why : IllegalWord)
  deriving DecidableEq, Repr

end Sys2Proof
end

