-- ==== Sys2Proof/Decode.lean ====
section
/-! DEFINITION. Decoding and encoding of command words (spec/30_encoding.md R60 to R68). Decoding is total on 32-bit
words and rejects an illegal word by name. The encoder follows the decoder, from the same table R67. -/

namespace Sys2Proof

/-- The three fields of a word (R60). -/
def fieldsOfWord (cw : Word) : CommandFields where
  opc := cw.extractLsb' 0 8
  imm := cw.extractLsb' 8 8
  rsv := cw.extractLsb' 16 16

/-- The word with the given fields (R60). -/
def wordOfFields (f : CommandFields) : Word := f.rsv ++ f.imm ++ f.opc

/-- The class of each assigned OPC value, none for every other (R67). -/
def formatOfOpcode (opc : Byte) : Option Format :=
  match opc.toNat with
  | 0x02 => some .i
  | 0x06 => some .i
  | n =>
    if n ≤ 0x06 ∨ (0x10 ≤ n ∧ n ≤ 0x18) ∨ (0x20 ≤ n ∧ n ≤ 0x27) ∨ (0x30 ≤ n ∧ n ≤ 0x36) ∨ n = 0x3F then some .n
    else none

/-- The command of each assigned OPC value (R67), with IMM where the class has it. -/
def instrOfOpcode (opc imm : Byte) : Option Instr :=
  match opc.toNat with
  | 0x00 => some .nop
  | 0x01 => some .crcInit
  | 0x02 => some (.crcByte imm)
  | 0x03 => some .crcBuf
  | 0x04 => some .crcFinal
  | 0x05 => some .crcChecksum
  | 0x06 => some (.crcTable imm)
  | 0x10 => some .typeLoad
  | 0x11 => some .typeLoadText
  | 0x12 => some .typeIsCritical
  | 0x13 => some .typeIsPublic
  | 0x14 => some .typeIsReservedValid
  | 0x15 => some .typeIsSafeToCopy
  | 0x16 => some .typeIsValid
  | 0x17 => some .typeBytes
  | 0x18 => some .typeText
  | 0x20 => some .chunkBuild
  | 0x21 => some .chunkParse
  | 0x22 => some .chunkLength
  | 0x23 => some .chunkCrc
  | 0x24 => some .chunkType
  | 0x25 => some .chunkTypeText
  | 0x26 => some .chunkDataText
  | 0x27 => some .chunkSerialize
  | 0x30 => some .pngParse
  | 0x31 => some .pngAppend
  | 0x32 => some .pngFind
  | 0x33 => some .pngRemove
  | 0x34 => some .pngCount
  | 0x35 => some .pngGet
  | 0x36 => some .pngSerialize
  | 0x3F => some .errClear
  | _ => none

/-- Decoding of a command word (R65). A word that is illegal for several of R66's reasons is named by the first in
the order reserved bits, opcode, immediate (log entry 18; every illegal word has the same effect, R172). -/
def decode (cw : Word) : Decoded :=
  let f := fieldsOfWord cw
  if f.rsv ≠ 0 then .illegal .reservedBitsSet
  else
    match instrOfOpcode f.opc f.imm with
    | none => .illegal .unassignedOpcode
    | some i => if formatOfOpcode f.opc = some .n ∧ f.imm ≠ 0 then .illegal .immediateNotZero else .command i

/-- The OPC and IMM of a command (R67), RSV zero (R63). -/
def fieldsOfInstr (i : Instr) : CommandFields :=
  match i with
  | .nop => ⟨0x00, 0, 0⟩
  | .crcInit => ⟨0x01, 0, 0⟩
  | .crcByte imm => ⟨0x02, imm, 0⟩
  | .crcBuf => ⟨0x03, 0, 0⟩
  | .crcFinal => ⟨0x04, 0, 0⟩
  | .crcChecksum => ⟨0x05, 0, 0⟩
  | .crcTable imm => ⟨0x06, imm, 0⟩
  | .typeLoad => ⟨0x10, 0, 0⟩
  | .typeLoadText => ⟨0x11, 0, 0⟩
  | .typeIsCritical => ⟨0x12, 0, 0⟩
  | .typeIsPublic => ⟨0x13, 0, 0⟩
  | .typeIsReservedValid => ⟨0x14, 0, 0⟩
  | .typeIsSafeToCopy => ⟨0x15, 0, 0⟩
  | .typeIsValid => ⟨0x16, 0, 0⟩
  | .typeBytes => ⟨0x17, 0, 0⟩
  | .typeText => ⟨0x18, 0, 0⟩
  | .chunkBuild => ⟨0x20, 0, 0⟩
  | .chunkParse => ⟨0x21, 0, 0⟩
  | .chunkLength => ⟨0x22, 0, 0⟩
  | .chunkCrc => ⟨0x23, 0, 0⟩
  | .chunkType => ⟨0x24, 0, 0⟩
  | .chunkTypeText => ⟨0x25, 0, 0⟩
  | .chunkDataText => ⟨0x26, 0, 0⟩
  | .chunkSerialize => ⟨0x27, 0, 0⟩
  | .pngParse => ⟨0x30, 0, 0⟩
  | .pngAppend => ⟨0x31, 0, 0⟩
  | .pngFind => ⟨0x32, 0, 0⟩
  | .pngRemove => ⟨0x33, 0, 0⟩
  | .pngCount => ⟨0x34, 0, 0⟩
  | .pngGet => ⟨0x35, 0, 0⟩
  | .pngSerialize => ⟨0x36, 0, 0⟩
  | .errClear => ⟨0x3F, 0, 0⟩

/-- The word of a command: `0x000000<OPC>` in class N, `0x0000<imm8><OPC>` in class I (R69). -/
def encode (i : Instr) : Word := wordOfFields (fieldsOfInstr i)

/-- `match` of a command's row of spec/opcode_table.json (R65: `match = op`). -/
def matchWord (i : Instr) : Word := (fieldsOfInstr i).opc.setWidth 32

/-- `mask` of a command's row (R65): 0xFFFF00FF for class I, 0xFFFFFFFF for class N. -/
def maskWord (i : Instr) : Word :=
  match formatOfOpcode (fieldsOfInstr i).opc with
  | some .i => 0xFFFF00FF
  | some .n => 0xFFFFFFFF
  | none => 0xFFFFFFFF

/-- The mnemonic of a command, as R67 spells it. -/
def Instr.mnemonic (i : Instr) : String :=
  match i with
  | .nop => "NOP"
  | .crcInit => "CRC_INIT"
  | .crcByte _ => "CRC_BYTE"
  | .crcBuf => "CRC_BUF"
  | .crcFinal => "CRC_FINAL"
  | .crcChecksum => "CRC_CHECKSUM"
  | .crcTable _ => "CRC_TABLE"
  | .typeLoad => "TYPE_LOAD"
  | .typeLoadText => "TYPE_LOAD_TEXT"
  | .typeIsCritical => "TYPE_IS_CRITICAL"
  | .typeIsPublic => "TYPE_IS_PUBLIC"
  | .typeIsReservedValid => "TYPE_IS_RESERVED_VALID"
  | .typeIsSafeToCopy => "TYPE_IS_SAFE_TO_COPY"
  | .typeIsValid => "TYPE_IS_VALID"
  | .typeBytes => "TYPE_BYTES"
  | .typeText => "TYPE_TEXT"
  | .chunkBuild => "CHUNK_BUILD"
  | .chunkParse => "CHUNK_PARSE"
  | .chunkLength => "CHUNK_LENGTH"
  | .chunkCrc => "CHUNK_CRC"
  | .chunkType => "CHUNK_TYPE"
  | .chunkTypeText => "CHUNK_TYPE_TEXT"
  | .chunkDataText => "CHUNK_DATA_TEXT"
  | .chunkSerialize => "CHUNK_SERIALIZE"
  | .pngParse => "PNG_PARSE"
  | .pngAppend => "PNG_APPEND"
  | .pngFind => "PNG_FIND"
  | .pngRemove => "PNG_REMOVE"
  | .pngCount => "PNG_COUNT"
  | .pngGet => "PNG_GET"
  | .pngSerialize => "PNG_SERIALIZE"
  | .errClear => "ERR_CLEAR"

/-- The instruction read from a word of `nbits` bits (the host's numbering: bit 0 is the least significant bit of the
word, and every bit above `nbits` is 0). A command is one 32-bit register word (R68), so no byte order enters. -/
def decodeTableWord (nbits w : Nat) : Option Instr :=
  match decode (BitVec.ofNat 32 (w % 2 ^ nbits)) with
  | .command i => some i
  | .illegal _ => none

end Sys2Proof
end

