-- ==== Sys2Proof/WellFormed.lean ====
section
/-! DEFINITION. What is well formed: the fields of a command word (spec/30_encoding.md R66) and the parameters
(spec/00_scope.md R5). -/

namespace Sys2Proof

/-- The fields are those of a legal word: R66's three conditions, each denied. -/
def CommandFields.wellFormed (f : CommandFields) : Bool :=
  decide (f.rsv = 0) &&
    match formatOfOpcode f.opc with
    | none => false
    | some .n => decide (f.imm = 0)
    | some .i => true

/-- A command is well formed when the fields its encoding has are. The type of IMM already bounds it to 8 bits, so
every term of Instr is well formed (`Laws.Encoding`). -/
def Instr.wellFormed (i : Instr) : Bool := (fieldsOfInstr i).wellFormed

/-- The constraints of R5. "a configuration outside the constraints of `00_scope.md` rule R5 is `refuse`"
(spec/93_implementation_defined.md item 6). -/
def Params.ok (p : Params) : Bool :=
  decide (12 ≤ p.ibufSize) && decide (p.ibufSize ≤ 2 ^ 32) &&
  decide (12 ≤ p.obufSize) && decide (p.obufSize ≤ 2 ^ 32 - 1) &&
  decide (p.maxData ≤ 2 ^ 32 - 1) && decide (p.maxChunks ≤ 2 ^ 32 - 1)

end Sys2Proof
end

