-- ==== Sys2Proof/Machine/State.lean ====
section
/-! DEFINITION. The state of the block as plain data (spec/10_state.md, spec/20_memory.md), what the host and the
reset input do to it, the outcomes of a step, and the state after reset (spec/70_reset_and_hazards.md R201). -/

namespace Sys2Proof.Machine

/-- The 14 values of STATUS.ERR and STATUS.SUBERR (spec/60_exceptions.md R181). "Codes 0x0E to 0xFF are never
written." Their numbers are `ErrCode.code`. -/
inductive ErrCode where
  | success
  | invalidChunkType
  | crcMismatch
  | badSignature
  | malformed
  | chunkParseFailure
  | oversizedPayload
  | noChunkType
  | noChunk
  | bufferRange
  | outputOverflow
  | storeFull
  | indexRange
  | illegalCommand
  deriving DecidableEq, Repr

/-- Four bytes in the place of a chunk type. It is a chunk type when all four are alphabetic
(spec/42_chunk_type.md R101, `TypeBytes.valid`); a lookup key need not be (R158). -/
structure TypeBytes where
  b0 : Byte
  b1 : Byte
  b2 : Byte
  b3 : Byte
  deriving DecidableEq, Repr

/-- A chunk value `(type, data)`; length and CRC are derived, never stored (spec/43_chunk.md R120). -/
structure Chunk where
  type : TypeBytes
  data : List Byte
  deriving DecidableEq, Repr

/-- The record PEND holds (spec/10_state.md R37). -/
structure Pending where
  cw : Word
  addr : Word
  len : Word
  key : Word
  idx : Word
  deriving DecidableEq, Repr

/-- A byte buffer: the written cells, by strictly rising address. An address that is not listed is an unwritten cell
(spec/20_memory.md R42, R43; log entry 11). -/
abbrev Memory := List Host.Cell

/-- The three host address spaces (spec/20_memory.md R40). -/
inductive Space where
  | reg
  | ibuf
  | obuf
  deriving DecidableEq, Repr

/-- One host access: its space, its byte offset from the space's base, its width in bits, and for a write the value
carried, of which an access moves exactly its width (spec/20_memory.md R44; log entry 16). -/
inductive Access where
  | read (space : Space) (offset width : Nat)
  | write (space : Space) (offset width : Nat) (value : Word)
  deriving DecidableEq, Repr

/-- The transitions of spec/70_reset_and_hazards.md R204 as inputs of the step: a host access, a turn of the engine, and
the two edges of the reset input (R200). -/
inductive Event where
  | host (a : Access)
  | engine
  | assertReset
  | releaseReset
  deriving DecidableEq, Repr

/-- What a host read returned: a register word or a buffer byte. -/
inductive ReadValue where
  | word (v : Word)
  | byte (b : Byte)
  deriving DecidableEq, Repr

/-- The whole state. The fields down to `obuf` are the block's (spec/10_state.md R11); TV and WV are views of `ctype`
and `w` (R17, R18); CMD holds no value (R13); ID and TABLE are constants (R32, R38). `resetIn` is the level of the reset
input (R200). The last four fields are the model's own (log entries 1, 3, 4 and 5). -/
structure State where
  /-- STATUS.BUSY, R14. -/
  busy : Bool
  /-- STATUS.DONE, R15. -/
  done : Bool
  /-- STATUS.FOUND, R16. -/
  found : Bool
  /-- STATUS.STICKY, R19. -/
  sticky : Bool
  /-- STATUS.OVERRUN, R20. -/
  overrun : Bool
  /-- STATUS.ERR, R21. -/
  err : ErrCode
  /-- STATUS.SUBERR, R22. -/
  suberr : ErrCode
  /-- ARG_ADDR, R24. -/
  argAddr : Word
  /-- ARG_LEN, R25. -/
  argLen : Word
  /-- ARG_TYPE, R26. -/
  argType : Word
  /-- ARG_INDEX, R27. -/
  argIndex : Word
  /-- RESULT, R28. -/
  result : Word
  /-- CRC, the running register before the final XOR, R29. -/
  crc : Word
  /-- OUT_LEN, R30. -/
  outLen : Word
  /-- ERR_OFFSET, R31. -/
  errOffset : Word
  /-- CTYPE, R34. -/
  ctype : Option TypeBytes
  /-- W, the working chunk, R35. -/
  w : Option Chunk
  /-- S, the chunk store, R36. -/
  store : List Chunk
  /-- PEND, R37. -/
  pend : Option Pending
  /-- IBUF, spec/20_memory.md R42. -/
  ibuf : Memory
  /-- OBUF, spec/20_memory.md R43. -/
  obuf : Memory
  /-- The reset input is asserted, spec/70_reset_and_hazards.md R200. -/
  resetIn : Bool
  /-- The parameters of spec/00_scope.md R5; no step changes them. -/
  cfg : Params
  /-- What the agents do next, in order. -/
  events : List Event
  /-- The values host reads have returned, newest first. -/
  reads : List ReadValue
  /-- How many draws have been made: the next draw is `Config.draw draws`. -/
  draws : Nat
  deriving DecidableEq, Repr

/-- The model faults of spec/60_exceptions.md R190: "The spec gives no hardware result for them. A model represents each
as a fault". Each is safe: the model stops where the hardware would do something. -/
inductive Fault where
  /-- Raised by the engine's MemRead over a range with an unwritten IBUF cell (R47). Safe. -/
  | uninitInput
  /-- Raised by a host read of an unwritten IBUF or OBUF cell (R42, R43). Safe. -/
  | uninitRead
  /-- Raised by a host access the bus does not admit (R45, R46) or one made while reset is asserted (R200). Safe. -/
  | hostBusError
  /-- Raised by a host write to IBUF while BUSY = 1 (R208). Safe. -/
  | hostHazard
  deriving DecidableEq, Repr

/-- Why the model has no step. -/
inductive Refusal where
  /-- Raised by an arm of exec whose command has no meaning yet (none is left). Safe. -/
  | notModelled (mnemonic : String)
  /-- Raised by step when the parameters break a constraint of R5: "the model is not defined for that configuration and
  rejects it before it starts" (spec/93_implementation_defined.md, treatment `refuse`). Safe. -/
  | badConfiguration
  /-- Raised by exec when PEND is none: the execute step is "enabled exactly when PEND is not none" (R205). No step asks
  for it (log entry 10). Safe. -/
  | noCommandPending
  deriving DecidableEq, Repr

/-- The outcome of a step of this machine. -/
abbrev Result := Host.Outcome State Fault Refusal

/-- The state after reset (R201), for given parameters and with nothing more to come. -/
def State.resetWith (cfg : Params) : State where
  busy := false
  done := false
  found := false
  sticky := false
  overrun := false
  err := .success
  suberr := .success
  argAddr := 0x00000000
  argLen := 0x00000000
  argType := 0x00000000
  argIndex := 0x00000000
  result := 0x00000000
  crc := 0xFFFFFFFF
  outLen := 0x00000000
  errOffset := 0x00000000
  ctype := none
  w := none
  store := []
  pend := none
  ibuf := []
  obuf := []
  resetIn := false
  cfg := cfg
  events := []
  reads := []
  draws := 0

/-- The machine right after reset (R201), with the parameters of the test vectors (log entry 1), the reset input released
(log entry 8), no event to come (log entry 3), nothing read (log entry 4) and no draw made (log entry 5). -/
def State.reset : State := State.resetWith Config.vectorParams

end Sys2Proof.Machine
end

