-- ==== Sys2Proof/Machine/Flags.lean ====
section
/-! DEFINITION. The STATUS register: the error numbers, the two views TV and WV, and the word the host reads
(spec/10_state.md R14 to R23, spec/60_exceptions.md R181). -/

namespace Sys2Proof.Machine

/-- The error numbers of R181. -/
def ErrCode.code (e : ErrCode) : Byte :=
  match e with
  | .success => 0x00
  | .invalidChunkType => 0x01
  | .crcMismatch => 0x02
  | .badSignature => 0x03
  | .malformed => 0x04
  | .chunkParseFailure => 0x05
  | .oversizedPayload => 0x06
  | .noChunkType => 0x07
  | .noChunk => 0x08
  | .bufferRange => 0x09
  | .outputOverflow => 0x0A
  | .storeFull => 0x0B
  | .indexRange => 0x0C
  | .illegalCommand => 0x0D

/-- STATUS.TV: "Reads 1 when CTYPE holds a chunk type and 0 when it holds none" (R17). -/
def State.tv (s : State) : Bool := s.ctype.isSome

/-- STATUS.WV: "Reads 1 when W holds a chunk and 0 when it holds none" (R18). -/
def State.wv (s : State) : Bool := s.w.isSome

/-- One bit of a register. -/
def flagBit (b : Bool) (pos : Nat) : Word := if b then BitVec.ofNat 32 (2 ^ pos) else 0

/-- The STATUS word (R14 to R23): BUSY 0, DONE 1, FOUND 2, TV 3, WV 4, STICKY 5, OVERRUN 6, ERR 15..8, SUBERR 23..16;
bit 7 and bits 31..24 read 0. -/
def State.statusWord (s : State) : Word :=
  flagBit s.busy 0 ||| flagBit s.done 1 ||| flagBit s.found 2 ||| flagBit s.tv 3 ||| flagBit s.wv 4 |||
  flagBit s.sticky 5 ||| flagBit s.overrun 6 |||
  (s.err.code.setWidth 32 <<< 8) ||| (s.suberr.code.setWidth 32 <<< 16)

/-- The STATUS fields R209 makes a draw while BUSY = 1: all but BUSY and DONE, and not the reserved bits, which "read 0 at
all times" (R23). -/
def statusDrawMask : Word := 0x00FFFF7C

/-- What a read of STATUS returns while BUSY = 1, for a drawn word `d`: BUSY and DONE exactly, every other field from the
draw (R209). -/
def State.statusWhileBusy (s : State) (d : Word) : Word :=
  flagBit s.busy 0 ||| flagBit s.done 1 ||| (d &&& statusDrawMask)

end Sys2Proof.Machine
end

