-- ==== Sys2Proof/Machine/Operands.lean ====
section
/-! DEFINITION. Byte sequences and their packed forms (spec/00_scope.md R7, spec/10_state.md R26), and the chunk-type
predicates (spec/42_chunk_type.md R100 to R103). -/

namespace Sys2Proof.Machine

/-- `be32(v)`: the 4-byte big-endian form of a word (R7). -/
def be32 (v : Word) : List Byte :=
  [v.extractLsb' 24 8, v.extractLsb' 16 8, v.extractLsb' 8 8, v.extractLsb' 0 8]

/-- `unbe32(s)` as an exact number (R7, R8): `s[0]*2^24 + s[1]*2^16 + s[2]*2^8 + s[3]` on a 4-byte s. -/
def unbe32 (s : List Byte) : Nat := s.foldl (fun acc b => acc * 256 + b.toNat) 0

/-- `s[i..j)` (R7). -/
def slice (s : List Byte) (i j : Nat) : List Byte := (s.drop i).take (j - i)

/-- The four bytes as a sequence. -/
def TypeBytes.bytes (t : TypeBytes) : List Byte := [t.b0, t.b1, t.b2, t.b3]

/-- `Unpack4(v) = [v[31:24], v[23:16], v[15:8], v[7:0]]` (R26). -/
def unpack4 (v : Word) : TypeBytes where
  b0 := v.extractLsb' 24 8
  b1 := v.extractLsb' 16 8
  b2 := v.extractLsb' 8 8
  b3 := v.extractLsb' 0 8

/-- `Pack4([b0,b1,b2,b3])`: byte 0 of the type is the most significant byte (R26). -/
def pack4 (t : TypeBytes) : Word := t.b0 ++ t.b1 ++ t.b2 ++ t.b3

/-- `IsAlpha(b)` (R100). -/
def isAlpha (b : Byte) : Bool :=
  decide (0x41 ≤ b.toNat ∧ b.toNat ≤ 0x5A) || decide (0x61 ≤ b.toNat ∧ b.toNat ≤ 0x7A)

/-- `ValidType(t)` for four bytes (R101). -/
def TypeBytes.valid (t : TypeBytes) : Bool := isAlpha t.b0 && isAlpha t.b1 && isAlpha t.b2 && isAlpha t.b3

/-- The chunk type a byte sequence is, if `ValidType` holds of it (R101). -/
def chunkTypeOf (s : List Byte) : Option TypeBytes :=
  match s with
  | [b0, b1, b2, b3] => if (TypeBytes.mk b0 b1 b2 b3).valid then some ⟨b0, b1, b2, b3⟩ else none
  | _ => none

/-- `Upper(b)`: "holds exactly when `b[5] = 0`" (R102). -/
def upper (b : Byte) : Bool := !b.getLsbD 5

/-- `Critical(t)` (R102). -/
def TypeBytes.critical (t : TypeBytes) : Bool := upper t.b0

/-- `Public(t)` (R102). -/
def TypeBytes.isPublic (t : TypeBytes) : Bool := upper t.b1

/-- `ReservedValid(t)` (R102). -/
def TypeBytes.reservedValid (t : TypeBytes) : Bool := upper t.b2

/-- `SafeToCopy(t)`: "`not Upper(t[3])`" (R102). -/
def TypeBytes.safeToCopy (t : TypeBytes) : Bool := !upper t.b3

/-- `IsValidType(t) = Critical(t) and ReservedValid(t)` (R103). -/
def TypeBytes.isValidType (t : TypeBytes) : Bool := t.critical && t.reservedValid

/-- A truth value as a word: "false is 0 and true is 1" (R107). -/
def boolWord (b : Bool) : Word := if b then 1 else 0

end Sys2Proof.Machine
end

