-- ==== Sys2Proof/Machine/Ops.lean ====
section
/-! DEFINITION. The shared operations: the buffers, MemRead and MemWrite (spec/20_memory.md R47, R48), the two ends of a
command, `finish` and `raise` (spec/60_exceptions.md R184, R185), the checks commands share, the accept
(spec/70_reset_and_hazards.md R205) and the reset (R200). -/

namespace Sys2Proof.Machine

/-- The cell at an address: none when it is unwritten (R42, R43). -/
def Memory.read (m : Memory) (a : Nat) : Option Byte :=
  match m with
  | [] => none
  | (k, b) :: rest => if k = a then some b else Memory.read rest a

/-- Set the cell at an address, keeping the addresses strictly rising. -/
def Memory.write (m : Memory) (a : Nat) (v : Byte) : Memory :=
  match m with
  | [] => [(a, v)]
  | (k, b) :: rest =>
    if a < k then (a, v) :: (k, b) :: rest
    else if a = k then (a, v) :: rest
    else (k, b) :: Memory.write rest a v

/-- The canonical form: addresses strictly rising. -/
abbrev Memory.wf (m : Memory) : Prop := m.Pairwise (fun x y => x.1 < y.1)

/-- The cells `[a .. a+n)` in address order, none when one of them is unwritten (R47). -/
def Memory.readRange (m : Memory) (a n : Nat) : Option (List Byte) :=
  match n with
  | 0 => some []
  | k + 1 =>
    match m.read a with
    | none => none
    | some b =>
      match Memory.readRange m (a + 1) k with
      | none => none
      | some rest => some (b :: rest)

/-- Set the cells from `a` on to the bytes given: cell a+i to s[i], no other (R48). -/
def Memory.writeRange (m : Memory) (a : Nat) (bytes : List Byte) : Memory :=
  match bytes with
  | [] => m
  | b :: rest => Memory.writeRange (m.write a b) (a + 1) rest

/-- What `finish` does to a state that already holds the command's writes (R184). -/
def State.finished (s : State) : State :=
  { s with err := .success, suberr := .success, busy := false, done := true, pend := none }

/-- The state after `raise E(sub, off)`, from the state before the command: every write of the command is discarded
(R185). -/
def State.raised (s : State) (e sub : ErrCode) (off : Nat) : State :=
  { s with
    err := e, suberr := sub, errOffset := BitVec.ofNat 32 off, sticky := true, busy := false, done := true, pend := none }

/-- `finish`: end the command successfully (R184). -/
def finish (s : State) : Result := .next s.finished

/-- `raise E(sub, off)`: end the command with an error. It is this block's one exception entry: nothing is saved, no mode
changes, control goes nowhere (R185, R189). "`raise E` without arguments means `raise E(0, 0)`." -/
def raise (s : State) (e : ErrCode) (sub : ErrCode := .success) (off : Nat := 0) : Result := .next (s.raised e sub off)

/-- The execute step is "enabled exactly when PEND is not none" and takes its operands from PEND (R205, R37). -/
def whenPending (s : State) (k : Pending → Result) : Result :=
  match s.pend with
  | none => .refused .noCommandPending
  | some p => k p

/-- `if not InRange(ADDR, LEN): raise BufferRange` (R9; exact sums, R8). -/
def checkRange (s : State) (p : Pending) (k : Result) : Result :=
  if p.addr.toNat + p.len.toNat ≤ s.cfg.ibufSize then k else raise s .bufferRange

/-- `MemRead(addr, n)`: the bytes of the range, or the model fault UninitInput (R47). -/
def memRead (s : State) (addr n : Nat) (k : List Byte → Result) : Result :=
  match s.ibuf.readRange addr n with
  | none => .fault .uninitInput
  | some bytes => k bytes

/-- `if TV = 0: raise NoChunkType`, else CTYPE (R34). -/
def needType (s : State) (k : TypeBytes → Result) : Result :=
  match s.ctype with
  | none => raise s .noChunkType
  | some t => k t

/-- `if WV = 0: raise NoChunk`, else W (R35). -/
def needChunk (s : State) (k : Chunk → Result) : Result :=
  match s.w with
  | none => raise s .noChunk
  | some c => k c

/-- `MemWrite(0, n, bytes); R[OUT_LEN] <- n` with n = len(bytes) (R48, R30). -/
def State.output (s : State) (bytes : List Byte) : State :=
  { s with obuf := s.obuf.writeRange 0 bytes, outLen := BitVec.ofNat 32 bytes.length }

/-- `if n > OBUF_SIZE: raise OutputOverflow` (R48). -/
def checkOutput (s : State) (n : Nat) (k : Result) : Result :=
  if n > s.cfg.obufSize then raise s .outputOverflow else k

/-- Accept: a host write of word v to CMD while STATUS.BUSY = 0 (R205). -/
def State.accepted (s : State) (v : Word) : State :=
  { s with
    pend := some ⟨v, s.argAddr, s.argLen, s.argType, s.argIndex⟩, busy := true, done := false }

/-- Every piece of the block's state set to its reset value (R200, R201). The reset input, the parameters, the events to
come, what the host has read and the count of draws are not the block's. -/
def State.resetBlock (s : State) : State :=
  { State.resetWith s.cfg with resetIn := s.resetIn, events := s.events, reads := s.reads, draws := s.draws }

/-- A host read that returns `v`. -/
def State.deliver (s : State) (v : ReadValue) : State := { s with reads := v :: s.reads }

/-- A host read that returns a value made of the next draw (R209); the next read draws anew. -/
def State.deliverDraw (s : State) (f : Word → ReadValue) : State :=
  { s with reads := f (Config.draw s.draws) :: s.reads, draws := s.draws + 1 }

end Sys2Proof.Machine
end

