-- ==== Sys2Proof/Machine/Bus.lean ====
section
/-! DEFINITION. Host accesses: the register map (spec/10_state.md R12 to R33), the buffers (spec/20_memory.md R42 to R46),
command issue (spec/70_reset_and_hazards.md R205, R206) and reads while BUSY = 1 (R209). -/

namespace Sys2Proof.Machine

/-- ID (R32). -/
def idWord : Word := 0x504E4701

/-- The registers of R12 by name. -/
inductive Reg where
  | cmd
  | status
  | argAddr
  | argLen
  | argType
  | argIndex
  | result
  | crc
  | outLen
  | errOffset
  | id
  | reserved
  deriving DecidableEq, Repr

/-- The register at an offset that is a multiple of 4 below 0x100 (R12, R33). -/
def regAt (offset : Nat) : Reg :=
  match offset with
  | 0x00 => .cmd
  | 0x04 => .status
  | 0x08 => .argAddr
  | 0x0C => .argLen
  | 0x10 => .argType
  | 0x14 => .argIndex
  | 0x18 => .result
  | 0x1C => .crc
  | 0x20 => .outLen
  | 0x24 => .errOffset
  | 0x28 => .id
  | _ => .reserved

/-- A register access the bus admits: 32 bits wide, at a multiple of 4, below 0x100 (R44, R45). -/
def regAdmits (offset width : Nat) : Bool := decide (width = 32) && decide (offset % 4 = 0) && decide (offset < 0x100)

/-- A buffer access the bus admits: 8 bits wide, at an address below the buffer's size (R44, R46). -/
def bufAdmits (size offset width : Nat) : Bool := decide (width = 8) && decide (offset < size)

/-- A read of a register whose value is exact when BUSY = 0 and a draw when BUSY = 1 (R209). -/
def readDrawn (s : State) (v : Word) : State :=
  if s.busy then s.deliverDraw .word else s.deliver (.word v)

/-- A read of a register (R12 to R33). CMD and the reserved offsets read 0; the argument registers and ID read exactly at
all times (R209). -/
def readReg (s : State) (r : Reg) : State :=
  match r with
  | .cmd => s.deliver (.word 0)
  | .status =>
    if s.busy then s.deliverDraw fun d => .word (s.statusWhileBusy d) else s.deliver (.word s.statusWord)
  | .argAddr => s.deliver (.word s.argAddr)
  | .argLen => s.deliver (.word s.argLen)
  | .argType => s.deliver (.word s.argType)
  | .argIndex => s.deliver (.word s.argIndex)
  | .result => readDrawn s s.result
  | .crc => readDrawn s s.crc
  | .outLen => readDrawn s s.outLen
  | .errOffset => readDrawn s s.errOffset
  | .id => s.deliver (.word idWord)
  | .reserved => s.deliver (.word 0)

/-- A write of word v to CMD: accepted when BUSY = 0 (R205), dropped with OVERRUN set when BUSY = 1 (R206). -/
def issueCommand (s : State) (v : Word) : State :=
  if s.busy then { s with overrun := true } else s.accepted v

/-- A write to a register: the argument registers store it at once, also while BUSY = 1 (R207); a write to a read-only
register or a reserved offset is ignored (R12, R33). -/
def writeReg (s : State) (r : Reg) (v : Word) : State :=
  match r with
  | .cmd => issueCommand s v
  | .argAddr => { s with argAddr := v }
  | .argLen => { s with argLen := v }
  | .argType => { s with argType := v }
  | .argIndex => { s with argIndex := v }
  | .status => s
  | .result => s
  | .crc => s
  | .outLen => s
  | .errOffset => s
  | .id => s
  | .reserved => s

/-- A host read of a buffer cell: its byte, or the model fault UninitRead (R42, R43). -/
def readCell (s : State) (m : Memory) (a : Nat) : Result :=
  match m.read a with
  | none => .fault .uninitRead
  | some b => .next (s.deliver (.byte b))

/-- A host read. While BUSY = 1 "every OBUF cell return[s] a draw" (R209), an unwritten one too (log entry 6), and IBUF
reads exactly. -/
def hostRead (s : State) (space : Space) (offset width : Nat) : Result :=
  match space with
  | .reg => if regAdmits offset width then .next (readReg s (regAt offset)) else .fault .hostBusError
  | .ibuf => if bufAdmits s.cfg.ibufSize offset width then readCell s s.ibuf offset else .fault .hostBusError
  | .obuf =>
    if bufAdmits s.cfg.obufSize offset width then
      if s.busy then .next (s.deliverDraw fun d => .byte (d.setWidth 8)) else readCell s s.obuf offset
    else .fault .hostBusError

/-- A host write. To IBUF while BUSY = 1 it is the model fault HostHazard (R208), unless the bus does not admit it (log
entry 7); to OBUF it is a bus error (R46). An 8-bit write moves the low 8 bits of the value (log entry 16). -/
def hostWrite (s : State) (space : Space) (offset width : Nat) (v : Word) : Result :=
  match space with
  | .reg => if regAdmits offset width then .next (writeReg s (regAt offset) v) else .fault .hostBusError
  | .ibuf =>
    if bufAdmits s.cfg.ibufSize offset width then
      if s.busy then .fault .hostHazard else .next { s with ibuf := s.ibuf.write offset (v.setWidth 8) }
    else .fault .hostBusError
  | .obuf => .fault .hostBusError

/-- A host access. While reset is asserted it is the model fault HostBusError (R200). -/
def hostAccess (s : State) (a : Access) : Result :=
  if s.resetIn then .fault .hostBusError
  else
    match a with
    | .read space offset width => hostRead s space offset width
    | .write space offset width v => hostWrite s space offset width v

/-- The platform address of an offset in a space (R40, R5). No rule depends on it, and no step reads it. -/
def platformAddress (cfg : Params) (space : Space) (offset : Nat) : Nat :=
  match space with
  | .reg => cfg.regBase + offset
  | .ibuf => cfg.ibufBase + offset
  | .obuf => cfg.obufBase + offset

end Sys2Proof.Machine
end

