-- ==== Sys2Proof/Machine/Crc.lean ====
section
/-! DEFINITION. The CRC-32/ISO-HDLC engine: its functions and its six commands (spec/41_crc.md). -/

namespace Sys2Proof.Machine

/-- The reflected polynomial (R80). -/
def crcPoly : Word := 0xEDB88320

/-- The initial register value and the final XOR (R80). -/
def crcOnes : Word := 0xFFFFFFFF

/-- One iteration of the loop of R81: shift first, then XOR (spec/90_conflicts.md C6). -/
def crcShift (c : Word) : Word :=
  if c.getLsbD 0 then (c >>> 1) ^^^ crcPoly else c >>> 1

/-- The loop of R81, `n` times. -/
def crcLoop (n : Nat) (c : Word) : Word :=
  match n with
  | 0 => c
  | k + 1 => crcLoop k (crcShift c)

/-- TABLE[n] (R81; the constant ROM of spec/10_state.md R38). -/
def crcTable (n : Byte) : Word := crcLoop 8 (n.setWidth 32)

/-- `CrcStep(c, b) = TABLE[(c XOR zext_32(b)) AND 0xFF] XOR (c >> 8)` (R82). -/
def crcStep (c : Word) (b : Byte) : Word :=
  crcTable ((c ^^^ b.setWidth 32).setWidth 8) ^^^ (c >>> 8)

/-- `CrcFold(c, s)` (R83). -/
def crcFold (c : Word) (s : List Byte) : Word :=
  match s with
  | [] => c
  | b :: rest => crcFold (crcStep c b) rest

/-- `CRC32(s) = CrcFold(0xFFFFFFFF, s) XOR 0xFFFFFFFF` (R83). -/
def crc32 (s : List Byte) : Word := crcFold crcOnes s ^^^ crcOnes

/-- CRC_INIT (R85). -/
def execCrcInit (s : State) : Result :=
  whenPending s fun _ => finish { s with crc := crcOnes }

/-- CRC_BYTE (R86). -/
def execCrcByte (imm : Byte) (s : State) : Result :=
  whenPending s fun _ => finish { s with crc := crcStep s.crc imm }

/-- CRC_BUF (R87). -/
def execCrcBuf (s : State) : Result :=
  whenPending s fun p =>
    checkRange s p <|
      memRead s p.addr.toNat p.len.toNat fun bytes =>
        finish { s with crc := crcFold s.crc bytes }

/-- CRC_FINAL (R88). -/
def execCrcFinal (s : State) : Result :=
  whenPending s fun _ => finish { s with result := s.crc ^^^ crcOnes }

/-- CRC_CHECKSUM (R89): the CRC register is neither read nor written. -/
def execCrcChecksum (s : State) : Result :=
  whenPending s fun p =>
    checkRange s p <|
      memRead s p.addr.toNat p.len.toNat fun bytes =>
        finish { s with result := crc32 bytes }

/-- CRC_TABLE (R90). -/
def execCrcTable (imm : Byte) (s : State) : Result :=
  whenPending s fun _ => finish { s with result := crcTable imm }

end Sys2Proof.Machine
end

