-- ==== Sys2Proof/Machine/Chunk.lean ====
section
/-! DEFINITION. The chunk frame codec: wire form, parse, UTF-8, and the eight chunk commands (spec/43_chunk.md). -/

namespace Sys2Proof.Machine

/-- `Length(c) = len(c.data)` as a 32-bit number (R121). -/
def Chunk.length (c : Chunk) : Word := BitVec.ofNat 32 c.data.length

/-- `Crc(c) = CRC32(c.type ++ c.data)` (R122). -/
def Chunk.crc (c : Chunk) : Word := crc32 (c.type.bytes ++ c.data)

/-- A chunk value: its type satisfies ValidType and its data is at most MAX_DATA bytes (R120). -/
def Chunk.wf (cfg : Params) (c : Chunk) : Bool := c.type.valid && decide (c.data.length ≤ cfg.maxData)

/-- `Serialize(c) = be32(Length(c)) ++ c.type ++ c.data ++ be32(Crc(c))` (R123). -/
def Chunk.serialize (c : Chunk) : List Byte := be32 c.length ++ c.type.bytes ++ c.data ++ be32 c.crc

/-- `ParseChunk(r)` (R124): the checks in the rule's order; the length field, bytes 0 to 3, is not read. -/
def parseChunk (cfg : Params) (r : List Byte) : Except ErrCode Chunk :=
  if r.length < 12 then .error .malformed
  else if r.length - 12 > cfg.maxData then .error .oversizedPayload
  else
    match chunkTypeOf (slice r 4 8) with
    | none => .error .invalidChunkType
    | some t =>
      let d := slice r 8 (r.length - 4)
      if unbe32 (slice r (r.length - 4) r.length) ≠ (crc32 (t.bytes ++ d)).toNat then .error .crcMismatch
      else .ok ⟨t, d⟩

/-- The rows of R127's table by first byte: the ranges of the bytes that must follow, or none when the first byte begins
no row. -/
def utf8Follow (b : Byte) : Option (List (Nat × Nat)) :=
  let n := b.toNat
  if n ≤ 0x7F then some []
  else if 0xC2 ≤ n ∧ n ≤ 0xDF then some [(0x80, 0xBF)]
  else if n = 0xE0 then some [(0xA0, 0xBF), (0x80, 0xBF)]
  else if 0xE1 ≤ n ∧ n ≤ 0xEC then some [(0x80, 0xBF), (0x80, 0xBF)]
  else if n = 0xED then some [(0x80, 0x9F), (0x80, 0xBF)]
  else if 0xEE ≤ n ∧ n ≤ 0xEF then some [(0x80, 0xBF), (0x80, 0xBF)]
  else if n = 0xF0 then some [(0x90, 0xBF), (0x80, 0xBF), (0x80, 0xBF)]
  else if 0xF1 ≤ n ∧ n ≤ 0xF3 then some [(0x80, 0xBF), (0x80, 0xBF), (0x80, 0xBF)]
  else if n = 0xF4 then some [(0x80, 0x8F), (0x80, 0xBF), (0x80, 0xBF)]
  else none

/-- Whether the bytes complete a sequence that still wants bytes in the ranges `want`, followed by whole sequences. -/
def utf8From (want : List (Nat × Nat)) (s : List Byte) : Bool :=
  match s, want with
  | [], [] => true
  | [], _ :: _ => false
  | b :: rest, [] =>
    match utf8Follow b with
    | none => false
    | some follow => utf8From follow rest
  | b :: rest, (lo, hi) :: more => decide (lo ≤ b.toNat ∧ b.toNat ≤ hi) && utf8From more rest

/-- `Utf8Valid(s)` (R127). -/
def utf8Valid (s : List Byte) : Bool := utf8From [] s

/-- CHUNK_BUILD (R128): NoChunkType, BufferRange, OversizedPayload, then MemRead. -/
def execChunkBuild (s : State) : Result :=
  whenPending s fun p =>
    needType s fun t =>
      checkRange s p <|
        if p.len.toNat > s.cfg.maxData then raise s .oversizedPayload
        else memRead s p.addr.toNat p.len.toNat fun d => finish { s with w := some ⟨t, d⟩ }

/-- CHUNK_PARSE (R129): RESULT is the declared length field, as read. -/
def execChunkParse (s : State) : Result :=
  whenPending s fun p =>
    checkRange s p <|
      memRead s p.addr.toNat p.len.toNat fun r =>
        match parseChunk s.cfg r with
        | .error e => raise s e
        | .ok c => finish { s with w := some c, result := BitVec.ofNat 32 (unbe32 (slice r 0 4)) }

/-- CHUNK_LENGTH (R130). -/
def execChunkLength (s : State) : Result :=
  whenPending s fun _ => needChunk s fun c => finish { s with result := c.length }

/-- CHUNK_CRC (R131). -/
def execChunkCrc (s : State) : Result :=
  whenPending s fun _ => needChunk s fun c => finish { s with result := c.crc }

/-- CHUNK_TYPE (R132). -/
def execChunkType (s : State) : Result :=
  whenPending s fun _ => needChunk s fun c => finish { s with ctype := some c.type, result := pack4 c.type }

/-- CHUNK_TYPE_TEXT (R133). "OutputOverflow cannot occur, because OBUF_SIZE >= 12." -/
def execChunkTypeText (s : State) : Result :=
  whenPending s fun _ => needChunk s fun c => finish { s.output c.type.bytes with result := 1 }

/-- CHUNK_DATA_TEXT (R134): data that is not valid UTF-8 is not an error. -/
def execChunkDataText (s : State) : Result :=
  whenPending s fun _ =>
    needChunk s fun c =>
      if utf8Valid c.data then
        checkOutput s c.data.length <| finish { s.output c.data with result := 1 }
      else finish { s with outLen := 0, result := 0 }

/-- CHUNK_SERIALIZE (R135). -/
def execChunkSerialize (s : State) : Result :=
  whenPending s fun _ =>
    needChunk s fun c =>
      checkOutput s (12 + c.data.length) <| finish (s.output c.serialize)

end Sys2Proof.Machine
end

