-- ==== Sys2Proof/Machine/ChunkType.lean ====
section
/-! DEFINITION. The chunk-type commands (spec/42_chunk_type.md R105 to R113). -/

namespace Sys2Proof.Machine

/-- Load CTYPE from a byte sequence, or raise InvalidChunkType (R105, R106). -/
def loadType (s : State) (bytes : List Byte) : Result :=
  match chunkTypeOf bytes with
  | none => raise s .invalidChunkType
  | some t => finish { s with ctype := some t }

/-- A query of one property of CTYPE (R107 to R111). -/
def queryType (s : State) (P : TypeBytes → Bool) : Result :=
  needType s fun t => finish { s with result := boolWord (P t) }

/-- TYPE_LOAD (R105). -/
def execTypeLoad (s : State) : Result :=
  whenPending s fun p => loadType s (unpack4 p.key).bytes

/-- TYPE_LOAD_TEXT (R106): the length is checked before any cell is read. -/
def execTypeLoadText (s : State) : Result :=
  whenPending s fun p =>
    checkRange s p <|
      if p.len.toNat ≠ 4 then raise s .invalidChunkType
      else memRead s p.addr.toNat 4 fun bytes => loadType s bytes

/-- TYPE_IS_CRITICAL (R107). -/
def execTypeIsCritical (s : State) : Result :=
  whenPending s fun _ => queryType s TypeBytes.critical

/-- TYPE_IS_PUBLIC (R108). -/
def execTypeIsPublic (s : State) : Result :=
  whenPending s fun _ => queryType s TypeBytes.isPublic

/-- TYPE_IS_RESERVED_VALID (R109). -/
def execTypeIsReservedValid (s : State) : Result :=
  whenPending s fun _ => queryType s TypeBytes.reservedValid

/-- TYPE_IS_SAFE_TO_COPY (R110). -/
def execTypeIsSafeToCopy (s : State) : Result :=
  whenPending s fun _ => queryType s TypeBytes.safeToCopy

/-- TYPE_IS_VALID (R111). -/
def execTypeIsValid (s : State) : Result :=
  whenPending s fun _ => queryType s TypeBytes.isValidType

/-- TYPE_BYTES (R112). -/
def execTypeBytes (s : State) : Result :=
  whenPending s fun _ => needType s fun t => finish { s with result := pack4 t }

/-- TYPE_TEXT (R113): "the text is the 4 bytes" (R104). "OutputOverflow cannot occur, because OBUF_SIZE >= 12". -/
def execTypeText (s : State) : Result :=
  whenPending s fun _ => needType s fun t => finish (s.output t.bytes)

end Sys2Proof.Machine
end

