-- ==== Sys2Proof/Machine/Container.lean ====
section
/-! DEFINITION. The PNG container sequencer: signature, store limits, parse, serialize, lookup, and its seven commands
(spec/44_container.md). -/

namespace Sys2Proof.Machine

/-- `SIG` (R150). -/
def pngSignature : List Byte := [0x89, 0x50, 0x4E, 0x47, 0x0D, 0x0A, 0x1A, 0x0A]

/-- The sum of the data lengths of a list of chunk values. -/
def storedBytes (L : List Chunk) : Nat := (L.map fun c => c.data.length).sum

/-- `StoreOK(L)` (R151). -/
def storeOK (cfg : Params) (L : List Chunk) : Bool :=
  decide (L.length ≤ cfg.maxChunks) && decide (storedBytes L ≤ cfg.storeBytes)

/-- A failure `(code, sub, off)` of ParsePng (R152). -/
structure ParseFailure where
  code : ErrCode
  sub : ErrCode
  off : Nat
  deriving DecidableEq, Repr

/-- The loop of `ParsePng` (R152), over the bytes from `pos` on. `skip` counts the bytes of a parsed record that remain
to be stepped over before the loop's test is reached again; `L` is the list so far. -/
def parseRecords (cfg : Params) (r : List Byte) (skip pos : Nat) (L : List Chunk) : Except ParseFailure (List Chunk) :=
  match r, skip with
  | [], _ => .ok L
  | _ :: rest, k + 1 => parseRecords cfg rest k pos L
  | b :: rest, 0 =>
    let rem := rest.length + 1
    if rem < 12 then .error ⟨.chunkParseFailure, .malformed, pos⟩
    else
      let n := unbe32 (slice (b :: rest) 0 4)
      if n > rem - 12 then .error ⟨.chunkParseFailure, .malformed, pos⟩
      else
        match parseChunk cfg (slice (b :: rest) 0 (12 + n)) with
        | .error e => .error ⟨.chunkParseFailure, e, pos⟩
        | .ok c =>
          if storeOK cfg (L ++ [c]) then parseRecords cfg rest (11 + n) (pos + 12 + n) (L ++ [c])
          else .error ⟨.storeFull, .success, pos⟩

/-- `ParsePng(r)` (R152). -/
def parsePng (cfg : Params) (r : List Byte) : Except ParseFailure (List Chunk) :=
  if r.length < 8 ∨ slice r 0 8 ≠ pngSignature then .error ⟨.badSignature, .success, 0⟩
  else parseRecords cfg (r.drop 8) 0 8 []

/-- `SerializePng(L)` (R153). -/
def serializePng (L : List Chunk) : List Byte := pngSignature ++ L.flatMap Chunk.serialize

/-- `FindFirst(L, t)`: the least i with `L[i].type = t`, or none (R155). -/
def findFirst (L : List Chunk) (t : TypeBytes) : Option Nat :=
  match L with
  | [] => none
  | c :: rest => if c.type = t then some 0 else (findFirst rest t).map (· + 1)

/-- `S[0..i) ++ S[i+1 .. len(S))` (R159). -/
def removeAt (L : List Chunk) (i : Nat) : List Chunk := L.take i ++ L.drop (i + 1)

/-- The RESULT of a lookup that finds nothing (R158). -/
def notFoundResult : Word := 0xFFFFFFFF

/-- PNG_PARSE (R156): "On any error, S is unchanged." -/
def execPngParse (s : State) : Result :=
  whenPending s fun p =>
    checkRange s p <|
      memRead s p.addr.toNat p.len.toNat fun r =>
        match parsePng s.cfg r with
        | .error f => raise s f.code f.sub f.off
        | .ok L => finish { s with store := L, result := BitVec.ofNat 32 L.length }

/-- PNG_APPEND (R157): W becomes none; RESULT is the new length. -/
def execPngAppend (s : State) : Result :=
  whenPending s fun _ =>
    needChunk s fun c =>
      if storeOK s.cfg (s.store ++ [c]) then
        finish { s with
          store := s.store ++ [c], w := none, result := BitVec.ofNat 32 (s.store ++ [c]).length }
      else raise s .storeFull

/-- PNG_FIND (R158): the key is not validated; S is never written. The index found is one of S's, so W becomes a chunk
(`Laws.findFirst_lt`). -/
def execPngFind (s : State) : Result :=
  whenPending s fun p =>
    match findFirst s.store (unpack4 p.key) with
    | some i => finish { s with w := s.store[i]?, found := true, result := BitVec.ofNat 32 i }
    | none => finish { s with found := false, result := notFoundResult }

/-- PNG_REMOVE (R159). -/
def execPngRemove (s : State) : Result :=
  whenPending s fun p =>
    match findFirst s.store (unpack4 p.key) with
    | some i =>
      finish { s with
        w := s.store[i]?, store := removeAt s.store i, found := true, result := BitVec.ofNat 32 i }
    | none => finish { s with found := false, result := notFoundResult }

/-- PNG_COUNT (R160). -/
def execPngCount (s : State) : Result :=
  whenPending s fun _ => finish { s with result := BitVec.ofNat 32 s.store.length }

/-- PNG_GET (R161): `if IDX >= len(S): raise IndexRange; W <- S[IDX]`. -/
def execPngGet (s : State) : Result :=
  whenPending s fun p =>
    match s.store[p.idx.toNat]? with
    | none => raise s .indexRange
    | some c => finish { s with w := some c }

/-- PNG_SERIALIZE (R162). -/
def execPngSerialize (s : State) : Result :=
  whenPending s fun _ =>
    checkOutput s (serializePng s.store).length <| finish (s.output (serializePng s.store))

end Sys2Proof.Machine
end

