-- ==== Sys2Proof/Machine/Control.lean ====
section
/-! DEFINITION. The control commands (spec/45_control.md R170, R171) and the illegal command (R172). -/

namespace Sys2Proof.Machine

/-- NOP (R170): `finish`. -/
def execNop (s : State) : Result :=
  whenPending s fun _ => finish s

/-- ERR_CLEAR (R171): STICKY, OVERRUN and ERR_OFFSET cleared. -/
def execErrClear (s : State) : Result :=
  whenPending s fun _ => finish { s with sticky := false, overrun := false, errOffset := 0 }

/-- The execute step of an illegal word: `raise IllegalCommand` (R172). -/
def execIllegal (s : State) : Result :=
  whenPending s fun _ => raise s .illegalCommand

end Sys2Proof.Machine
end

