-- ==== Sys2Proof/Machine/Dispatch.lean ====
section
/-! DEFINITION. The execute step of each command (spec/70_reset_and_hazards.md R205): one arm per constructor of Instr. -/

namespace Sys2Proof.Machine

def exec (i : Instr) (s : State) : Host.Outcome State Fault Refusal :=
  match i with
  | .nop => Sys2Proof.Machine.execNop s
  | .crcInit => Sys2Proof.Machine.execCrcInit s
  | .crcByte imm => Sys2Proof.Machine.execCrcByte imm s
  | .crcBuf => Sys2Proof.Machine.execCrcBuf s
  | .crcFinal => Sys2Proof.Machine.execCrcFinal s
  | .crcChecksum => Sys2Proof.Machine.execCrcChecksum s
  | .crcTable imm => Sys2Proof.Machine.execCrcTable imm s
  | .typeLoad => Sys2Proof.Machine.execTypeLoad s
  | .typeLoadText => Sys2Proof.Machine.execTypeLoadText s
  | .typeIsCritical => Sys2Proof.Machine.execTypeIsCritical s
  | .typeIsPublic => Sys2Proof.Machine.execTypeIsPublic s
  | .typeIsReservedValid => Sys2Proof.Machine.execTypeIsReservedValid s
  | .typeIsSafeToCopy => Sys2Proof.Machine.execTypeIsSafeToCopy s
  | .typeIsValid => Sys2Proof.Machine.execTypeIsValid s
  | .typeBytes => Sys2Proof.Machine.execTypeBytes s
  | .typeText => Sys2Proof.Machine.execTypeText s
  | .chunkBuild => Sys2Proof.Machine.execChunkBuild s
  | .chunkParse => Sys2Proof.Machine.execChunkParse s
  | .chunkLength => Sys2Proof.Machine.execChunkLength s
  | .chunkCrc => Sys2Proof.Machine.execChunkCrc s
  | .chunkType => Sys2Proof.Machine.execChunkType s
  | .chunkTypeText => Sys2Proof.Machine.execChunkTypeText s
  | .chunkDataText => Sys2Proof.Machine.execChunkDataText s
  | .chunkSerialize => Sys2Proof.Machine.execChunkSerialize s
  | .pngParse => Sys2Proof.Machine.execPngParse s
  | .pngAppend => Sys2Proof.Machine.execPngAppend s
  | .pngFind => Sys2Proof.Machine.execPngFind s
  | .pngRemove => Sys2Proof.Machine.execPngRemove s
  | .pngCount => Sys2Proof.Machine.execPngCount s
  | .pngGet => Sys2Proof.Machine.execPngGet s
  | .pngSerialize => Sys2Proof.Machine.execPngSerialize s
  | .errClear => Sys2Proof.Machine.execErrClear s

end Sys2Proof.Machine
end

