-- ==== Sys2Proof/Machine/Engine.lean ====
section
/-! DEFINITION. The engine's turn and the turns of the other agents (spec/70_reset_and_hazards.md R200, R204, R205). -/

namespace Sys2Proof.Machine

/-- Execute (R205): decode CW, then the command's rule, or IllegalCommand for an illegal word (R172). -/
def executeWord (s : State) (cw : Word) : Result :=
  match decode cw with
  | .command i => exec i s
  | .illegal _ => execIllegal s

/-- The engine's turn. The execute step is "enabled exactly when PEND is not none" (R205): a turn with PEND none changes
nothing (log entries 12 and 13). While reset is asserted the block stays in the reset state (R200). -/
def engineTurn (s : State) : Result :=
  if s.resetIn then .next s.resetBlock
  else
    match s.pend with
    | none => .next s
    | some p => executeWord s p.cw

/-- Reset asserted: "Every piece of state … is set at once"; a pending command is discarded (R200). -/
def resetAsserted (s : State) : State := { s.resetBlock with resetIn := true }

/-- Reset released: "while it is asserted and when it is released, the block takes the reset state" (R200). Releasing a
reset that is not asserted is no edge and changes nothing (log entry 17). -/
def resetReleased (s : State) : State :=
  if s.resetIn then { s.resetBlock with resetIn := false } else s

/-- The transition of one event. -/
def eventTurn (e : Event) (s : State) : Result :=
  match e with
  | .host a => hostAccess s a
  | .engine => engineTurn s
  | .assertReset => .next (resetAsserted s)
  | .releaseReset => .next (resetReleased s)

/-- `s` with the reset input released and the word accepted, whether or not a command was pending. -/
def placeCommand (s : State) (cw : Word) : State := { s.accepted cw with resetIn := false }

end Sys2Proof.Machine
end

