-- ==== Sys2Proof/Machine/Step.lean ====
section
/-! DEFINITION. One step of the machine (spec/70_reset_and_hazards.md R204), and how the host places a command. -/

namespace Sys2Proof.Machine

/-- One transition: the next event's, or with no event left the engine's. Parameters outside R5's constraints are
refused. -/
def step (s : State) : Host.Outcome State Fault Refusal :=
  if s.cfg.ok then
    match s.events with
    | [] => engineTurn s
    | e :: rest => eventTurn e { s with events := rest }
  else .refused .badConfiguration

/-- `s` with the command word `w` accepted and the engine's turn next: PEND holds the word and the argument registers,
BUSY is 1 and DONE is 0, as after the accept of R205 (log entry 9). -/
def State.withFetchWord (s : State) (nbits w : Nat) : State :=
  { placeCommand s (BitVec.ofNat 32 (w % 2 ^ nbits)) with events := .engine :: s.events }

end Sys2Proof.Machine
end

