-- ==== Sys2Proof/Machine/HostProgram.lean ====
section
/-! DEFINITION. The assembler statements and pseudo-statements of host programs (spec/30_encoding.md R69, R70) as lists of
events. The host's control flow is its own: `WAIT` carries how many of its reads still see BUSY = 1, and `DUMP` the
OUT_LEN the host has read (log entry 21). -/

namespace Sys2Proof.Machine

/-- The offset of a register (R12); a reserved one stands for the first reserved offset. -/
def regOffset (r : Reg) : Nat :=
  match r with
  | .cmd => 0x00
  | .status => 0x04
  | .argAddr => 0x08
  | .argLen => 0x0C
  | .argType => 0x10
  | .argIndex => 0x14
  | .result => 0x18
  | .crc => 0x1C
  | .outLen => 0x20
  | .errOffset => 0x24
  | .id => 0x28
  | .reserved => 0x2C

/-- A statement of R69 or a pseudo-statement of R70. -/
inductive Stmt where
  | wr (r : Reg) (v : Word)
  | rd (r : Reg)
  | cmd (i : Instr)
  | wb (a : Nat) (b : Byte)
  | rb (space : Space) (a : Nat)
  | wait (polls : Nat)
  | doCmd (i : Instr) (polls : Nat)
  | fill (a : Nat) (bytes : List Byte)
  | setR (a n : Word)
  | setType (t : TypeBytes)
  | setIdx (i : Word)
  | checksum (a n : Word) (polls : Nat)
  | dump (outLen : Nat)
  deriving DecidableEq, Repr

/-- `WR <reg>, <v32>`. -/
def evWr (r : Reg) (v : Word) : Event := .host (.write .reg (regOffset r) 32 v)

/-- `RD <reg>`. -/
def evRd (r : Reg) : Event := .host (.read .reg (regOffset r) 32)

/-- `CMD <MNEMONIC> [#<imm8>]`: the command's word written to CMD. -/
def evCmd (i : Instr) : Event := evWr .cmd (encode i)

/-- `WB IBUF[<a>], <b8>`. -/
def evWb (a : Nat) (b : Byte) : Event := .host (.write .ibuf a 8 (b.setWidth 32))

/-- `RB OBUF[<a>]` and `RB IBUF[<a>]`. -/
def evRb (space : Space) (a : Nat) : Event := .host (.read space a 8)

/-- `WAIT`: the read of STATUS repeated until BUSY reads 0; the execute step comes before the last read. -/
def evWait (polls : Nat) : List Event := List.replicate polls (evRd .status) ++ [.engine, evRd .status]

/-- `FILL <a>, <s>`: the bytes in increasing address. -/
def evFill (a : Nat) (bytes : List Byte) : List Event :=
  match bytes with
  | [] => []
  | b :: rest => evWb a b :: evFill (a + 1) rest

/-- The events of a statement (R69, R70). -/
def Stmt.events (st : Stmt) : List Event :=
  match st with
  | .wr r v => [evWr r v]
  | .rd r => [evRd r]
  | .cmd i => [evCmd i]
  | .wb a b => [evWb a b]
  | .rb space a => [evRb space a]
  | .wait polls => evWait polls
  | .doCmd i polls => evCmd i :: evWait polls
  | .fill a bytes => evFill a bytes
  | .setR a n => [evWr .argAddr a, evWr .argLen n]
  | .setType t => [evWr .argType (pack4 t)]
  | .setIdx i => [evWr .argIndex i]
  | .checksum a n polls => [evWr .argAddr a, evWr .argLen n, evCmd .crcChecksum] ++ evWait polls
  | .dump n => evRd .outLen :: (List.range n).map (evRb .obuf)

/-- The events of a host program. -/
def programEvents (p : List Stmt) : List Event := p.flatMap Stmt.events

end Sys2Proof.Machine
end

