-- ==== Sys2Proof/Safety.lean ====
section
/-! DEFINITION. What counts as a safe run, in the terms claims use: the invariant of the machine, and the host's duties
(spec/70_reset_and_hazards.md R210). -/

namespace Sys2Proof.Machine

/-- Every listed cell lies below `size`. -/
abbrev Memory.within (m : Memory) (size : Nat) : Prop := ∀ c ∈ m, c.1 < size

/-- The invariant every step keeps. Each field names the rule it comes from. -/
structure State.Inv (s : State) : Prop where
  /-- The parameters meet the constraints of spec/00_scope.md R5. -/
  cfgOk : s.cfg.ok = true
  /-- "PEND is none exactly when STATUS.BUSY = 0." (spec/10_state.md R37) -/
  busyPend : s.busy = s.pend.isSome
  /-- DONE is "Cleared to 0 by the accept of the next command" and set by its end (spec/10_state.md R15). -/
  busyNotDone : s.busy = true → s.done = false
  /-- CTYPE is none or satisfies ValidType (spec/10_state.md R34). -/
  ctypeValid : ∀ t, s.ctype = some t → t.valid = true
  /-- W is none or a chunk value (spec/43_chunk.md R120). -/
  workValid : ∀ c, s.w = some c → c.wf s.cfg = true
  /-- Every stored chunk is a chunk value (spec/10_state.md R36). -/
  storeValid : ∀ c ∈ s.store, c.wf s.cfg = true
  /-- "S always satisfies StoreOK" (spec/44_container.md R151). -/
  storeFits : storeOK s.cfg s.store = true
  /-- SUBERR is a chunk-level cause when ERR is ChunkParseFailure and 0x00 otherwise (spec/60_exceptions.md R182). -/
  suberrCause :
    if s.err = .chunkParseFailure then
      s.suberr ∈ [ErrCode.malformed, .oversizedPayload, .invalidChunkType, .crcMismatch]
    else s.suberr = .success
  /-- STICKY records every failure since ERR_CLEAR or reset (spec/60_exceptions.md R187). -/
  errSticky : s.err ≠ .success → s.sticky = true
  /-- IBUF is in its canonical form and inside its space (spec/20_memory.md R42). -/
  ibufWf : Memory.wf s.ibuf
  ibufWithin : Memory.within s.ibuf s.cfg.ibufSize
  /-- OBUF likewise (spec/20_memory.md R43). -/
  obufWf : Memory.wf s.obuf
  obufWithin : Memory.within s.obuf s.cfg.obufSize
  /-- Every cell of OBUF[0 .. OUT_LEN) is written (spec/10_state.md R30). -/
  outWritten : ∀ a < s.outLen.toNat, (Memory.read s.obuf a).isSome = true
  /-- While reset is asserted the block is in the reset state (spec/70_reset_and_hazards.md R200). -/
  resetHeld : s.resetIn = true → s.resetBlock = s

/-- The commands that read IBUF (spec/10_state.md R24). -/
def readsInput (i : Instr) : Bool :=
  match i with
  | .crcBuf | .crcChecksum | .typeLoadText | .chunkBuild | .chunkParse | .pngParse => true
  | .nop | .crcInit | .crcByte _ | .crcFinal | .crcTable _ | .typeLoad | .typeIsCritical | .typeIsPublic
  | .typeIsReservedValid | .typeIsSafeToCopy | .typeIsValid | .typeBytes | .typeText | .chunkLength | .chunkCrc
  | .chunkType | .chunkTypeText | .chunkDataText | .chunkSerialize | .pngAppend | .pngFind | .pngRemove | .pngCount
  | .pngGet | .pngSerialize | .errClear => false

/-- "Fill an IBUF range before a command reads it" (R210 (d), R203): if a command that reads IBUF is pending, every cell
of its range is written. -/
def State.inputFilled (s : State) : Prop :=
  ∀ p i, s.pend = some p → decode p.cw = .command i → readsInput i = true →
    ∀ k < p.len.toNat, (Memory.read s.ibuf (p.addr.toNat + k)).isSome = true

/-- An access that keeps the host's side of the interface: admitted by the bus (spec/20_memory.md R44 to R46), not made
while reset is asserted (R200), no IBUF write while BUSY = 1 (R208), and no read of an unwritten cell (R42, R43). -/
def Access.respectful (s : State) (a : Access) : Prop :=
  s.resetIn = false ∧
    match a with
    | .read .reg offset width => regAdmits offset width = true
    | .read .ibuf offset width =>
      bufAdmits s.cfg.ibufSize offset width = true ∧ (Memory.read s.ibuf offset).isSome = true
    | .read .obuf offset width =>
      bufAdmits s.cfg.obufSize offset width = true ∧ (s.busy = true ∨ (Memory.read s.obuf offset).isSome = true)
    | .write .reg offset width _ => regAdmits offset width = true
    | .write .ibuf offset width _ => bufAdmits s.cfg.ibufSize offset width = true ∧ s.busy = false
    | .write .obuf _ _ _ => False

/-- The next transition breaks none of the host's duties. -/
def State.respectful (s : State) : Prop :=
  match s.events with
  | [] => s.inputFilled
  | .engine :: _ => s.inputFilled
  | .host a :: _ => a.respectful s
  | .assertReset :: _ => True
  | .releaseReset :: _ => True

/-- A run of `n` steps that ends in a state, not in a fault or a refusal. -/
def State.runsSafely (n : Nat) (s : State) : Prop := ∃ t, Host.Core.run Sys2Proof.core n s = .next t

end Sys2Proof.Machine
end

