-- ==== Sys2Proof/Certificates/Slice0/Obligations.lean ====
section
/-! DEFINITION. The statements for the provers. Each docstring names the rule of spec/ it formalises. `Sys2Proof.Claims`
holds the few words the statements share, written from the rules and not from the model's own operations. -/

namespace Sys2Proof.Claims

open Sys2Proof.Machine

/-- What `finish` sets (R184), on a state that holds the command's own writes. -/
def ended (s : State) : State :=
  { s with err := .success, suberr := .success, busy := false, done := true, pend := none }

/-- What `raise E(sub, off)` sets (R185), on the state before the command. -/
def failed (s : State) (e sub : ErrCode) (off : Word) : State :=
  { s with err := e, suberr := sub, errOffset := off, sticky := true, busy := false, done := true, pend := none }

/-- ADDR + LEN > IBUF_SIZE, exactly (R8, R9). -/
def inputOutside (s : State) (p : Pending) : Prop := s.cfg.ibufSize < p.addr.toNat + p.len.toNat

/-- The range is in IBUF and one of its cells is unwritten (R47). -/
def inputMissing (s : State) (p : Pending) : Prop :=
  p.addr.toNat + p.len.toNat ≤ s.cfg.ibufSize ∧ ∃ k < p.len.toNat, Memory.read s.ibuf (p.addr.toNat + k) = none

/-- The range is in IBUF and `bytes` are its cells in address order (R47). -/
def inputIs (s : State) (p : Pending) (bytes : List Byte) : Prop :=
  p.addr.toNat + p.len.toNat ≤ s.cfg.ibufSize ∧ bytes.length = p.len.toNat ∧
    ∀ k < bytes.length, Memory.read s.ibuf (p.addr.toNat + k) = bytes[k]?

/-- OBUF cell i of `t` is `bytes[i]` for i < len(bytes), and no other cell has changed since `s` (R48). -/
def wrote (s t : State) (bytes : List Byte) : Prop :=
  ∀ a, Memory.read t.obuf a = if a < bytes.length then bytes[a]? else Memory.read s.obuf a

/-- An ASCII letter (R100). -/
def alphabetic (b : Byte) : Prop := (0x41 ≤ b.toNat ∧ b.toNat ≤ 0x5A) ∨ (0x61 ≤ b.toNat ∧ b.toNat ≤ 0x7A)

/-- All four bytes are letters (R101). -/
def allAlphabetic (t : TypeBytes) : Prop := alphabetic t.b0 ∧ alphabetic t.b1 ∧ alphabetic t.b2 ∧ alphabetic t.b3

/-- The packed value of four bytes, byte 0 the most significant (R26, R7). -/
def packed (t : TypeBytes) : Nat := t.b0.toNat * 2 ^ 24 + t.b1.toNat * 2 ^ 16 + t.b2.toNat * 2 ^ 8 + t.b3.toNat

/-- The 4-byte big-endian form of a number below 2^32 (R7). -/
def bigEndian (n : Nat) : List Byte :=
  [BitVec.ofNat 8 (n / 2 ^ 24), BitVec.ofNat 8 (n / 2 ^ 16), BitVec.ofNat 8 (n / 2 ^ 8), BitVec.ofNat 8 n]

/-- The wire form of a chunk value (R123). -/
def wireForm (c : Chunk) : List Byte :=
  bigEndian c.data.length ++ [c.type.b0, c.type.b1, c.type.b2, c.type.b3] ++ c.data ++
    bigEndian (crc32 ([c.type.b0, c.type.b1, c.type.b2, c.type.b3] ++ c.data)).toNat

/-- The bytes of a container (R150, R153). -/
def fileForm (L : List Chunk) : List Byte :=
  [0x89, 0x50, 0x4E, 0x47, 0x0D, 0x0A, 0x1A, 0x0A] ++ (L.map wireForm).flatten

/-- `c` is the chunk of type `t` with the least index, and `i` is that index (R155). -/
def firstOfType (L : List Chunk) (t : TypeBytes) (i : Nat) (c : Chunk) : Prop :=
  L[i]? = some c ∧ c.type = t ∧ ∀ j < i, ∀ d, L[j]? = some d → d.type ≠ t

/-- The eight iterations of R81 on a word. -/
def eightShifts (c : Word) : Word := (fun x : Word => if x.getLsbD 0 then (x >>> 1) ^^^ 0xEDB88320 else x >>> 1)^[8] c

/-- One byte of the CRC in its normal form: polynomial 0x04C11DB7, the input byte reflected and taken most significant bit
first (R80). -/
def normalStep (c : Word) (b : Byte) : Word :=
  (fun x : Word => if x.getMsbD 0 then (x <<< 1) ^^^ 0x04C11DB7 else x <<< 1)^[8] (c ^^^ (b.reverse.setWidth 32 <<< 24))

/-- The rows of R127's table. -/
def utf8Row (p : List Byte) : Prop :=
  ∃ n : List Nat, p.map BitVec.toNat = n ∧
    match n with
    | [a] => a ≤ 0x7F
    | [a, b] => 0xC2 ≤ a ∧ a ≤ 0xDF ∧ 0x80 ≤ b ∧ b ≤ 0xBF
    | [a, b, c] =>
      0x80 ≤ c ∧ c ≤ 0xBF ∧
        ((a = 0xE0 ∧ 0xA0 ≤ b ∧ b ≤ 0xBF) ∨ (0xE1 ≤ a ∧ a ≤ 0xEC ∧ 0x80 ≤ b ∧ b ≤ 0xBF) ∨
          (a = 0xED ∧ 0x80 ≤ b ∧ b ≤ 0x9F) ∨ (0xEE ≤ a ∧ a ≤ 0xEF ∧ 0x80 ≤ b ∧ b ≤ 0xBF))
    | [a, b, c, d] =>
      0x80 ≤ c ∧ c ≤ 0xBF ∧ 0x80 ≤ d ∧ d ≤ 0xBF ∧
        ((a = 0xF0 ∧ 0x90 ≤ b ∧ b ≤ 0xBF) ∨ (0xF1 ≤ a ∧ a ≤ 0xF3 ∧ 0x80 ≤ b ∧ b ≤ 0xBF) ∨
          (a = 0xF4 ∧ 0x80 ≤ b ∧ b ≤ 0x8F))
    | _ => False

/-- A host write of word `v` to CMD. -/
def cmdWrite (v : Word) : Event := .host (.write .reg 0x00 32 v)

/-- The accepts and execute steps of CRC_INIT, CRC_BYTE for each byte, and CRC_FINAL. -/
def incrementalCrc (bytes : List Byte) : List Event :=
  [cmdWrite 0x00000001, .engine] ++
    bytes.flatMap (fun b => [cmdWrite (BitVec.ofNat 32 (b.toNat * 256 + 2)), .engine]) ++
    [cmdWrite 0x00000004, .engine]

/-- A function applied to the next state of an outcome. -/
def mapNext (f : State → State) (r : Result) : Result :=
  match r with
  | .next t => .next (f t)
  | .fault e => .fault e
  | .refused e => .refused e

/-- An agent other than a host access may clear the sticky bits: the reset input acts, or the engine executes ERR_CLEAR. -/
def clearsErrors (s : State) : Prop :=
  s.resetIn = true ∨ (∃ rest, s.events = .assertReset :: rest) ∨
    ((s.events = [] ∨ ∃ rest, s.events = .engine :: rest) ∧ ∃ p, s.pend = some p ∧ p.cw = 0x0000003F)

end Sys2Proof.Claims

open Sys2Proof Sys2Proof.Machine Sys2Proof.Claims

/-! ## Encoding -/

/-- R65, R67: the encoder and the decoder agree in both directions, for every command and every word. -/
def Obligations.DecodeAndEncodeAgree : Prop :=
  (∀ i : Instr, i.wellFormed = true ∧ decode (encode i) = .command i) ∧
    ∀ (cw : Word) (i : Instr), decode cw = .command i → encode i = cw

/-- R65: a word is a command exactly when it has the row's `match` under the row's `mask`, and at most one row fits. -/
def Obligations.DecodeIsMaskAndMatch : Prop :=
  (∀ i : Instr,
    maskWord i = (if (∃ b, i = .crcByte b) ∨ (∃ b, i = .crcTable b) then 0xFFFF00FF else 0xFFFFFFFF) ∧
      ∀ cw : Word, cw &&& maskWord i = matchWord i ↔ ∃ j : Instr, j.mnemonic = i.mnemonic ∧ decode cw = .command j) ∧
    ∀ (cw : Word) (i j : Instr),
      cw &&& maskWord i = matchWord i → cw &&& maskWord j = matchWord j → i.mnemonic = j.mnemonic

/-- R66, R67: the illegal words are those with an unassigned opcode, a nonzero RSV, or (in class N) a nonzero IMM. -/
def Obligations.IllegalWordsAreTheUnassigned : Prop :=
  ∀ cw : Word,
    (∃ why, decode cw = .illegal why) ↔
      let opc := cw.toNat % 256
      let imm := cw.toNat / 256 % 256
      let rsv := cw.toNat / 65536
      (0x07 ≤ opc ∧ opc ≤ 0x0F) ∨ (0x19 ≤ opc ∧ opc ≤ 0x1F) ∨ (0x28 ≤ opc ∧ opc ≤ 0x2F) ∨
        (0x37 ≤ opc ∧ opc ≤ 0x3E) ∨ 0x40 ≤ opc ∨ rsv ≠ 0 ∨ (opc ≠ 0x02 ∧ opc ≠ 0x06 ∧ imm ≠ 0)

/-- 95_test_vectors V-CTL and R67: sample words of every family decode to the command they stand for. -/
def Obligations.SampleWordsDecode : Prop :=
  decode 0x00000000 = .command .nop ∧ decode 0x0000003F = .command .errClear ∧
    decode 0x00003102 = .command (.crcByte 0x31) ∧ decode 0x00008006 = .command (.crcTable 0x80) ∧
    decode 0x00000011 = .command .typeLoadText ∧ decode 0x00000027 = .command .chunkSerialize ∧
    decode 0x00000030 = .command .pngParse ∧ decode 0x00010002 = .illegal .reservedBitsSet ∧
    decode 0x00000007 = .illegal .unassignedOpcode ∧ decode 0x0000013F = .illegal .immediateNotZero

/-! ## The protocol -/

/-- R205, execute: on the engine's turn, with PEND holding a word that decodes to a command, the step is that command's
execute step, with the turn taken from the list of events. -/
def Obligations.EngineTurnRunsTheDecodedCommand : Prop :=
  ∀ (s : State) (p : Pending) (i : Instr),
    s.cfg.ok = true → s.resetIn = false → s.pend = some p → decode p.cw = .command i →
      (s.events = [] → step s = exec i s) ∧
        ∀ rest, s.events = .engine :: rest → step s = exec i { s with events := rest }

/-- R172: an illegal word is accepted like any command, and its execute step raises IllegalCommand and changes nothing
else. -/
def Obligations.IllegalWordRaisesIllegalCommand : Prop :=
  (∀ (s : State) (v : Word) (why : IllegalWord) (rest : List Event),
    s.cfg.ok = true → s.resetIn = false → s.busy = false → decode v = .illegal why → s.events = cmdWrite v :: rest →
      step s = .next { s with
        events := rest, pend := some ⟨v, s.argAddr, s.argLen, s.argType, s.argIndex⟩, busy := true, done := false }) ∧
  ∀ (s : State) (p : Pending) (why : IllegalWord) (rest : List Event),
    s.cfg.ok = true → s.resetIn = false → s.pend = some p → decode p.cw = .illegal why → s.events = .engine :: rest →
      step s = .next (failed { s with events := rest } .illegalCommand .success 0)

/-- R205, accept: a write to CMD while BUSY = 0 latches the word and the four argument registers, whatever the word. -/
def Obligations.AcceptLatchesTheOperands : Prop :=
  ∀ (s : State) (v : Word) (rest : List Event),
    s.cfg.ok = true → s.resetIn = false → s.busy = false → s.events = cmdWrite v :: rest →
      step s = .next { s with
        events := rest, pend := some ⟨v, s.argAddr, s.argLen, s.argType, s.argIndex⟩, busy := true, done := false }

/-- R206: a write to CMD while BUSY = 1 sets OVERRUN and nothing else. -/
def Obligations.CommandWriteWhileBusyIsDropped : Prop :=
  ∀ (s : State) (v : Word) (rest : List Event),
    s.cfg.ok = true → s.resetIn = false → s.busy = true → s.events = cmdWrite v :: rest →
      step s = .next { s with events := rest, overrun := true }

/-- R207: an argument register written, also while BUSY = 1, changes at once, and no execute step sees the change. -/
def Obligations.ArgumentWritesDoNotReachTheCommand : Prop :=
  (∀ (s : State) (v : Word) (rest : List Event), s.cfg.ok = true → s.resetIn = false →
    (s.events = .host (.write .reg 0x08 32 v) :: rest → step s = .next { s with events := rest, argAddr := v }) ∧
    (s.events = .host (.write .reg 0x0C 32 v) :: rest → step s = .next { s with events := rest, argLen := v }) ∧
    (s.events = .host (.write .reg 0x10 32 v) :: rest → step s = .next { s with events := rest, argType := v }) ∧
    (s.events = .host (.write .reg 0x14 32 v) :: rest → step s = .next { s with events := rest, argIndex := v })) ∧
  ∀ (i : Instr) (s : State) (a l k x : Word),
    exec i { s with argAddr := a, argLen := l, argType := k, argIndex := x } =
      mapNext (fun t => { t with argAddr := a, argLen := l, argType := k, argIndex := x }) (exec i s)

/-- R208: a host write to an IBUF cell while BUSY = 1 is the model fault HostHazard. (A write that reaches no cell is
Obligations.BusErrors, log entry 7.) -/
def Obligations.IbufWriteWhileBusyIsAHazard : Prop :=
  ∀ (s : State) (a : Nat) (v : Word) (rest : List Event),
    s.cfg.ok = true → s.resetIn = false → s.busy = true → a < s.cfg.ibufSize →
      s.events = .host (.write .ibuf a 8 v) :: rest → step s = .fault .hostHazard

/-- R209: what reads return while BUSY = 1. A drawn value is the free value `Config.draw` at the next count, so nothing
more can be proved of it (log entries 5 and 20); an unwritten OBUF cell is drawn too (log entry 6). -/
def Obligations.ReadsWhileBusyAreDraws : Prop :=
  ∀ (s : State) (rest : List Event), s.cfg.ok = true → s.resetIn = false → s.busy = true → s.done = false →
    (s.events = .host (.read .reg 0x04 32) :: rest →
      ∃ v : Word, step s = .next { s with events := rest, reads := .word v :: s.reads, draws := s.draws + 1 } ∧
        v.getLsbD 0 = true ∧ v.getLsbD 1 = false ∧ v.getLsbD 7 = false ∧ v.extractLsb' 24 8 = 0 ∧
        v &&& 0x00FFFF7C = Config.draw s.draws &&& 0x00FFFF7C) ∧
    (∀ off ∈ [0x18, 0x1C, 0x20, 0x24], s.events = .host (.read .reg off 32) :: rest →
      step s = .next { s with
        events := rest, reads := .word (Config.draw s.draws) :: s.reads, draws := s.draws + 1 }) ∧
    (∀ a < s.cfg.obufSize, s.events = .host (.read .obuf a 8) :: rest →
      step s = .next { s with
        events := rest, reads := .byte ((Config.draw s.draws).setWidth 8) :: s.reads, draws := s.draws + 1 }) ∧
    (∀ ov ∈ [(0x08, s.argAddr), (0x0C, s.argLen), (0x10, s.argType), (0x14, s.argIndex), (0x28, (0x504E4701 : Word))],
      s.events = .host (.read .reg ov.1 32) :: rest →
        step s = .next { s with events := rest, reads := .word ov.2 :: s.reads }) ∧
    ∀ (a : Nat) (b : Byte), a < s.cfg.ibufSize → Memory.read s.ibuf a = some b →
      s.events = .host (.read .ibuf a 8) :: rest →
        step s = .next { s with events := rest, reads := .byte b :: s.reads }

/-- R12, R13, R33, R52, R209: with BUSY = 0 every register reads its value and the read changes nothing else. -/
def Obligations.RegisterMapWhenIdle : Prop :=
  ∀ (s : State) (off : Nat) (v : Word) (rest : List Event),
    s.cfg.ok = true → s.resetIn = false → s.busy = false →
      ((off, v) ∈ [(0x00, 0), (0x04, s.statusWord), (0x08, s.argAddr), (0x0C, s.argLen), (0x10, s.argType),
          (0x14, s.argIndex), (0x18, s.result), (0x1C, s.crc), (0x20, s.outLen), (0x24, s.errOffset),
          (0x28, 0x504E4701)] ∨ (0x2C ≤ off ∧ off ≤ 0xFC ∧ off % 4 = 0 ∧ v = 0)) →
      s.events = .host (.read .reg off 32) :: rest →
        step s = .next { s with events := rest, reads := .word v :: s.reads }

/-- R12, R33: a write to a read-only register or a reserved offset changes nothing. -/
def Obligations.ReadOnlyAndReservedWritesAreIgnored : Prop :=
  ∀ (s : State) (off : Nat) (v : Word) (rest : List Event),
    s.cfg.ok = true → s.resetIn = false →
      (off ∈ [0x04, 0x18, 0x1C, 0x20, 0x24, 0x28] ∨ (0x2C ≤ off ∧ off ≤ 0xFC ∧ off % 4 = 0)) →
      s.events = .host (.write .reg off 32 v) :: rest → step s = .next { s with events := rest }

/-- R45, R46: the accesses the bus does not admit are the model fault HostBusError. That an IBUF write it does not admit is
HostBusError also while BUSY = 1 is the model's choice (log entry 7). -/
def Obligations.BusErrors : Prop :=
  ∀ (s : State) (off width : Nat) (v : Word) (rest : List Event), s.cfg.ok = true →
    ((width ≠ 32 ∨ off % 4 ≠ 0 ∨ 0x100 ≤ off) →
      (s.events = .host (.read .reg off width) :: rest → step s = .fault .hostBusError) ∧
      (s.events = .host (.write .reg off width v) :: rest → step s = .fault .hostBusError)) ∧
    ((width ≠ 8 ∨ s.cfg.ibufSize ≤ off) →
      (s.events = .host (.read .ibuf off width) :: rest → step s = .fault .hostBusError) ∧
      (s.events = .host (.write .ibuf off width v) :: rest → step s = .fault .hostBusError)) ∧
    ((width ≠ 8 ∨ s.cfg.obufSize ≤ off) →
      (s.events = .host (.read .obuf off width) :: rest → step s = .fault .hostBusError)) ∧
    (s.events = .host (.write .obuf off width v) :: rest → step s = .fault .hostBusError)

/-- R42: IBUF cells are unwritten after reset, written by the host alone, and read as written; an unwritten cell faults. That
the byte written is the low 8 bits of a 32-bit value is the model's choice (log entry 16). -/
def Obligations.IbufCells : Prop :=
  (∀ a, Memory.read State.reset.ibuf a = none) ∧
  (∀ (i : Instr) (s t : State), exec i s = .next t → t.ibuf = s.ibuf) ∧
  ∀ (s : State) (a : Nat) (rest : List Event), s.cfg.ok = true → s.resetIn = false → a < s.cfg.ibufSize →
    (∀ v : Word, s.busy = false → s.events = .host (.write .ibuf a 8 v) :: rest →
      ∃ t, step s = .next t ∧ t = { s with events := rest, ibuf := t.ibuf } ∧
        Memory.read t.ibuf a = some (v.setWidth 8) ∧ ∀ x, x ≠ a → Memory.read t.ibuf x = Memory.read s.ibuf x) ∧
    (s.events = .host (.read .ibuf a 8) :: rest →
      (∀ b, Memory.read s.ibuf a = some b →
        step s = .next { s with events := rest, reads := .byte b :: s.reads }) ∧
      (Memory.read s.ibuf a = none → step s = .fault .uninitRead))

/-- R43, with BUSY = 0: OBUF cells are unwritten after reset, a host read returns the byte or faults, a host write is a bus
error. -/
def Obligations.ObufCells : Prop :=
  (∀ a, Memory.read State.reset.obuf a = none) ∧
  ∀ (s : State) (a : Nat) (rest : List Event),
    s.cfg.ok = true → s.resetIn = false → a < s.cfg.obufSize → s.busy = false →
    (s.events = .host (.read .obuf a 8) :: rest →
      (∀ b, Memory.read s.obuf a = some b →
        step s = .next { s with events := rest, reads := .byte b :: s.reads }) ∧
      (Memory.read s.obuf a = none → step s = .fault .uninitRead)) ∧
    ∀ v : Word, s.events = .host (.write .obuf a 8 v) :: rest → step s = .fault .hostBusError

/-- R200: asserting reset sets the whole block to its reset state, discarding a pending command; it stays so while asserted
and when released; a host access made meanwhile faults. The parameters, the events, the reads and the count of draws are the
model's own fields and stay (log entry 22). -/
def Obligations.ResetTakesTheResetState : Prop :=
  ∀ (s : State) (rest : List Event), s.cfg.ok = true →
    (s.events = .assertReset :: rest →
      step s = .next { State.reset with
        cfg := s.cfg, resetIn := true, events := rest, reads := s.reads, draws := s.draws }) ∧
    (s.resetIn = true → s.events = .releaseReset :: rest →
      step s = .next { State.reset with
        cfg := s.cfg, resetIn := false, events := rest, reads := s.reads, draws := s.draws }) ∧
    (s.resetIn = true → s.events = .engine :: rest →
      step s = .next { State.reset with
        cfg := s.cfg, resetIn := true, events := rest, reads := s.reads, draws := s.draws }) ∧
    ∀ a : Access, s.resetIn = true → s.events = .host a :: rest → step s = .fault .hostBusError

/-- R201: the values of the reset state. -/
def Obligations.ResetValues : Prop :=
  State.reset.statusWord = 0x00000000 ∧ State.reset.busy = false ∧ State.reset.done = false ∧
    State.reset.found = false ∧ State.reset.sticky = false ∧ State.reset.overrun = false ∧
    State.reset.err = .success ∧ State.reset.suberr = .success ∧ State.reset.tv = false ∧ State.reset.wv = false ∧
    State.reset.argAddr = 0x00000000 ∧ State.reset.argLen = 0x00000000 ∧ State.reset.argType = 0x00000000 ∧
    State.reset.argIndex = 0x00000000 ∧ State.reset.result = 0x00000000 ∧ State.reset.crc = 0xFFFFFFFF ∧
    State.reset.outLen = 0x00000000 ∧ State.reset.errOffset = 0x00000000 ∧ State.reset.ctype = none ∧
    State.reset.w = none ∧ State.reset.store = [] ∧ State.reset.pend = none ∧
    idWord = 0x504E4701 ∧ crcTable 0xFF = 0x2D02EF8D ∧
    ∀ a, Memory.read State.reset.ibuf a = none ∧ Memory.read State.reset.obuf a = none

/-- R14 to R23, R181: the layout of the STATUS word and the error numbers in it. -/
def Obligations.StatusWordLayout : Prop :=
  (∀ s : State,
    s.statusWord.getLsbD 0 = s.busy ∧ s.statusWord.getLsbD 1 = s.done ∧ s.statusWord.getLsbD 2 = s.found ∧
      s.statusWord.getLsbD 3 = s.ctype.isSome ∧ s.statusWord.getLsbD 4 = s.w.isSome ∧
      s.statusWord.getLsbD 5 = s.sticky ∧ s.statusWord.getLsbD 6 = s.overrun ∧ s.statusWord.getLsbD 7 = false ∧
      s.statusWord.extractLsb' 8 8 = s.err.code ∧ s.statusWord.extractLsb' 16 8 = s.suberr.code ∧
      s.statusWord.extractLsb' 24 8 = 0) ∧
    [ErrCode.success, .invalidChunkType, .crcMismatch, .badSignature, .malformed, .chunkParseFailure, .oversizedPayload,
      .noChunkType, .noChunk, .bufferRange, .outputOverflow, .storeFull, .indexRange, .illegalCommand].map
        (fun e => e.code.toNat) = List.range 14

/-! ## The CRC engine -/

/-- R84: the table step is the bitwise step. -/
def Obligations.CrcStepIsTheBitwiseStep : Prop :=
  ∀ (c : Word) (b : Byte), crcStep c b = eightShifts (c ^^^ b.setWidth 32)

/-- R81, R82, R83: the table, the one-byte update, and the fold, which splits at any point. -/
def Obligations.CrcFoldIsTheIteratedUpdate : Prop :=
  (∀ n : Byte, crcTable n = eightShifts (n.setWidth 32)) ∧
    (∀ (c : Word) (b : Byte), crcStep c b = crcTable ((c ^^^ b.setWidth 32).setWidth 8) ^^^ (c >>> 8)) ∧
    (∀ c : Word, crcFold c [] = c) ∧
    (∀ (c : Word) (b : Byte) (t : List Byte), crcFold c ([b] ++ t) = crcFold (crcStep c b) t) ∧
    (∀ s : List Byte, crc32 s = crcFold 0xFFFFFFFF s ^^^ 0xFFFFFFFF) ∧ crc32 [] = 0x00000000 ∧
    ∀ (c : Word) (s t : List Byte), crcFold c (s ++ t) = crcFold (crcFold c s) t

/-- R80: CRC32 is the CRC of polynomial 0x04C11DB7 with initial value 0xFFFFFFFF, input and output reflected and final XOR
0xFFFFFFFF, with the check value of "123456789". -/
def Obligations.Crc32IsIsoHdlc : Prop :=
  (∀ s : List Byte, crc32 s = (s.foldl normalStep 0xFFFFFFFF).reverse ^^^ 0xFFFFFFFF) ∧
    crc32 [0x31, 0x32, 0x33, 0x34, 0x35, 0x36, 0x37, 0x38, 0x39] = 0xCBF43926

/-- R85, R86, R88, R90: CRC_INIT, CRC_BYTE, CRC_FINAL and CRC_TABLE. CRC_FINAL reads CRC as R88 says, against the last
sentence of R29: the model's reading (log entry 19). -/
def Obligations.CrcRegisterCommands : Prop :=
  encode .crcInit = 0x00000001 ∧ encode .crcFinal = 0x00000004 ∧
  (∀ b : Byte, (encode (.crcByte b)).toNat = b.toNat * 256 + 2 ∧ (encode (.crcTable b)).toNat = b.toNat * 256 + 6) ∧
  ∀ (s : State) (p : Pending) (b : Byte), s.pend = some p →
    exec .crcInit s = .next (ended { s with crc := 0xFFFFFFFF }) ∧
    exec (.crcByte b) s = .next (ended { s with crc := crcStep s.crc b }) ∧
    exec .crcFinal s = .next (ended { s with result := s.crc ^^^ 0xFFFFFFFF }) ∧
    exec (.crcTable b) s = .next (ended { s with result := crcTable b })

/-- R87: CRC_BUF. -/
def Obligations.CrcBufFoldsTheInput : Prop :=
  encode .crcBuf = 0x00000003 ∧
  ∀ (s : State) (p : Pending), s.pend = some p →
    (inputOutside s p → exec .crcBuf s = .next (failed s .bufferRange .success 0)) ∧
    (inputMissing s p → exec .crcBuf s = .fault .uninitInput) ∧
    ∀ bytes, inputIs s p bytes → exec .crcBuf s = .next (ended { s with crc := crcFold s.crc bytes })

/-- R89: CRC_CHECKSUM; the CRC register keeps its value. -/
def Obligations.CrcChecksumOfTheInput : Prop :=
  encode .crcChecksum = 0x00000005 ∧
  ∀ (s : State) (p : Pending), s.pend = some p →
    (inputOutside s p → exec .crcChecksum s = .next (failed s .bufferRange .success 0)) ∧
    (inputMissing s p → exec .crcChecksum s = .fault .uninitInput) ∧
    ∀ bytes, inputIs s p bytes → exec .crcChecksum s = .next (ended { s with result := crc32 bytes })

/-- R88's sequence law by CRC_BYTE, from every idle state: CRC_INIT, CRC_BYTE for each byte and CRC_FINAL, each accepted and executed,
leave RESULT = CRC32 of the bytes. -/
def Obligations.IncrementalCrcIsTheChecksum : Prop :=
  ∀ (s : State) (bytes : List Byte) (rest : List Event),
    s.cfg.ok = true → s.resetIn = false → s.busy = false → s.events = incrementalCrc bytes ++ rest →
      ∃ t : State, Host.Core.run Sys2Proof.core (2 * (bytes.length + 2)) s = .next t ∧
        t.result = crc32 bytes ∧ t.err = .success ∧ t.busy = false ∧ t.done = true ∧ t.events = rest ∧
        t.store = s.store ∧ t.w = s.w ∧ t.ctype = s.ctype ∧ t.obuf = s.obuf

/-- R29, R88 (log entry 19): of the commands only CRC_INIT, CRC_BYTE, CRC_BUF and CRC_FINAL depend on the CRC register. -/
def Obligations.CrcRegisterIsPrivate : Prop :=
  ∀ (i : Instr) (s : State) (v : Word),
    i ≠ .crcInit → (∀ b, i ≠ .crcByte b) → i ≠ .crcBuf → i ≠ .crcFinal →
      exec i { s with crc := v } = mapNext (fun t => { t with crc := v }) (exec i s)

/-! ## Chunk types -/

/-- R105: TYPE_LOAD. -/
def Obligations.TypeLoadFromKey : Prop :=
  encode .typeLoad = 0x00000010 ∧
  ∀ (s : State) (p : Pending) (t : TypeBytes), s.pend = some p → p.key.toNat = packed t →
    (allAlphabetic t → exec .typeLoad s = .next (ended { s with ctype := some t })) ∧
    (¬ allAlphabetic t → exec .typeLoad s = .next (failed s .invalidChunkType .success 0))

/-- R106: TYPE_LOAD_TEXT, in the order BufferRange, LEN, MemRead, bytes. -/
def Obligations.TypeLoadFromText : Prop :=
  encode .typeLoadText = 0x00000011 ∧
  ∀ (s : State) (p : Pending), s.pend = some p →
    (inputOutside s p → exec .typeLoadText s = .next (failed s .bufferRange .success 0)) ∧
    (¬ inputOutside s p → p.len ≠ 4 → exec .typeLoadText s = .next (failed s .invalidChunkType .success 0)) ∧
    (p.len = 4 → inputMissing s p → exec .typeLoadText s = .fault .uninitInput) ∧
    ∀ t : TypeBytes, inputIs s p [t.b0, t.b1, t.b2, t.b3] →
      (allAlphabetic t → exec .typeLoadText s = .next (ended { s with ctype := some t })) ∧
      (¬ allAlphabetic t → exec .typeLoadText s = .next (failed s .invalidChunkType .success 0))

/-- R102, R103, R107 to R111: the five property queries. -/
def Obligations.TypeQueriesReadTheCaseBits : Prop :=
  encode .typeIsCritical = 0x00000012 ∧ encode .typeIsPublic = 0x00000013 ∧
  encode .typeIsReservedValid = 0x00000014 ∧ encode .typeIsSafeToCopy = 0x00000015 ∧
  encode .typeIsValid = 0x00000016 ∧
  (∀ b : Byte, alphabetic b → (b.getLsbD 5 = false ↔ 0x41 ≤ b.toNat ∧ b.toNat ≤ 0x5A)) ∧
  ∀ (s : State) (p : Pending), s.pend = some p →
    (∀ t : TypeBytes, s.ctype = some t →
      exec .typeIsCritical s = .next (ended { s with result := if t.b0.getLsbD 5 = false then 1 else 0 }) ∧
      exec .typeIsPublic s = .next (ended { s with result := if t.b1.getLsbD 5 = false then 1 else 0 }) ∧
      exec .typeIsReservedValid s = .next (ended { s with result := if t.b2.getLsbD 5 = false then 1 else 0 }) ∧
      exec .typeIsSafeToCopy s = .next (ended { s with result := if t.b3.getLsbD 5 = true then 1 else 0 }) ∧
      exec .typeIsValid s =
        .next (ended { s with result := if t.b0.getLsbD 5 = false ∧ t.b2.getLsbD 5 = false then 1 else 0 })) ∧
    (s.ctype = none →
      ∀ i ∈ [Instr.typeIsCritical, .typeIsPublic, .typeIsReservedValid, .typeIsSafeToCopy, .typeIsValid],
        exec i s = .next (failed s .noChunkType .success 0))

/-- R112, R113: TYPE_BYTES and TYPE_TEXT. -/
def Obligations.TypeBytesAndText : Prop :=
  encode .typeBytes = 0x00000017 ∧ encode .typeText = 0x00000018 ∧
  ∀ (s : State) (p : Pending), s.pend = some p →
    (∀ t : TypeBytes, s.ctype = some t →
      (∃ r : Word, r.toNat = packed t ∧ exec .typeBytes s = .next (ended { s with result := r })) ∧
      ∃ u, exec .typeText s = .next u ∧ u = { ended s with obuf := u.obuf, outLen := 4 } ∧
        wrote s u [t.b0, t.b1, t.b2, t.b3]) ∧
    (s.ctype = none →
      exec .typeBytes s = .next (failed s .noChunkType .success 0) ∧
      exec .typeText s = .next (failed s .noChunkType .success 0))

/-! ## Chunks -/

/-- R128: CHUNK_BUILD, in the order NoChunkType, BufferRange, OversizedPayload, MemRead. -/
def Obligations.ChunkBuildFromTypeAndInput : Prop :=
  encode .chunkBuild = 0x00000020 ∧
  ∀ (s : State) (p : Pending), s.pend = some p →
    (s.ctype = none → exec .chunkBuild s = .next (failed s .noChunkType .success 0)) ∧
    ∀ t : TypeBytes, s.ctype = some t →
      (inputOutside s p → exec .chunkBuild s = .next (failed s .bufferRange .success 0)) ∧
      (¬ inputOutside s p → s.cfg.maxData < p.len.toNat →
        exec .chunkBuild s = .next (failed s .oversizedPayload .success 0)) ∧
      (p.len.toNat ≤ s.cfg.maxData → inputMissing s p → exec .chunkBuild s = .fault .uninitInput) ∧
      ∀ d, p.len.toNat ≤ s.cfg.maxData → inputIs s p d →
        exec .chunkBuild s = .next (ended { s with w := some ⟨t, d⟩ })

/-- R124: ParseChunk on every input, by its fields; the length field `h` decides nothing. -/
def Obligations.ParseChunkChecksInOrder : Prop :=
  ∀ cfg : Params,
    (∀ r : List Byte, r.length < 12 → parseChunk cfg r = .error .malformed) ∧
    ∀ (h : List Byte) (t : TypeBytes) (d f : List Byte), h.length = 4 → f.length = 4 →
      let r := h ++ [t.b0, t.b1, t.b2, t.b3] ++ d ++ f
      let right := bigEndian (crc32 ([t.b0, t.b1, t.b2, t.b3] ++ d)).toNat
      (cfg.maxData < d.length → parseChunk cfg r = .error .oversizedPayload) ∧
      (d.length ≤ cfg.maxData → ¬ allAlphabetic t → parseChunk cfg r = .error .invalidChunkType) ∧
      (d.length ≤ cfg.maxData → allAlphabetic t → f ≠ right → parseChunk cfg r = .error .crcMismatch) ∧
      (d.length ≤ cfg.maxData → allAlphabetic t → f = right → parseChunk cfg r = .ok ⟨t, d⟩)

/-- R129: CHUNK_PARSE; RESULT is the declared length field, big-endian, as read. -/
def Obligations.ChunkParseFromInput : Prop :=
  encode .chunkParse = 0x00000021 ∧
  ∀ (s : State) (p : Pending), s.pend = some p →
    (inputOutside s p → exec .chunkParse s = .next (failed s .bufferRange .success 0)) ∧
    (inputMissing s p → exec .chunkParse s = .fault .uninitInput) ∧
    (∀ r e, inputIs s p r → parseChunk s.cfg r = .error e →
      e ∈ [ErrCode.malformed, .oversizedPayload, .invalidChunkType, .crcMismatch] ∧
        exec .chunkParse s = .next (failed s e .success 0)) ∧
    ∀ (a b c d : Byte) (more : List Byte) (ch : Chunk),
      inputIs s p (a :: b :: c :: d :: more) → parseChunk s.cfg (a :: b :: c :: d :: more) = .ok ch →
        exec .chunkParse s = .next (ended { s with w := some ch, result := a ++ b ++ c ++ d })

/-- R130, R131, R132: CHUNK_LENGTH, CHUNK_CRC and CHUNK_TYPE. -/
def Obligations.ChunkFieldsOfW : Prop :=
  encode .chunkLength = 0x00000022 ∧ encode .chunkCrc = 0x00000023 ∧ encode .chunkType = 0x00000024 ∧
  ∀ (s : State) (p : Pending), s.pend = some p →
    (∀ c : Chunk, s.w = some c →
      exec .chunkLength s = .next (ended { s with result := BitVec.ofNat 32 c.data.length }) ∧
      exec .chunkCrc s =
        .next (ended { s with result := crc32 ([c.type.b0, c.type.b1, c.type.b2, c.type.b3] ++ c.data) }) ∧
      ∃ r : Word, r.toNat = packed c.type ∧
        exec .chunkType s = .next (ended { s with ctype := some c.type, result := r })) ∧
    (s.w = none → ∀ i ∈ [Instr.chunkLength, .chunkCrc, .chunkType], exec i s = .next (failed s .noChunk .success 0))

/-- R133: CHUNK_TYPE_TEXT. -/
def Obligations.ChunkTypeTextOfW : Prop :=
  encode .chunkTypeText = 0x00000025 ∧
  ∀ (s : State) (p : Pending), s.pend = some p →
    (s.w = none → exec .chunkTypeText s = .next (failed s .noChunk .success 0)) ∧
    ∀ c : Chunk, s.w = some c →
      ∃ u, exec .chunkTypeText s = .next u ∧ u = { ended s with obuf := u.obuf, outLen := 4, result := 1 } ∧
        wrote s u [c.type.b0, c.type.b1, c.type.b2, c.type.b3]

/-- R127: Utf8Valid holds exactly of the sequences that split into rows of the table. -/
def Obligations.Utf8ValidIsTheTable : Prop :=
  ∀ s : List Byte, utf8Valid s = true ↔ ∃ parts : List (List Byte), parts.flatten = s ∧ ∀ p ∈ parts, utf8Row p

/-- R134: CHUNK_DATA_TEXT; data that is not valid UTF-8 is not an error and leaves OBUF as it was. -/
def Obligations.ChunkDataTextOfW : Prop :=
  encode .chunkDataText = 0x00000026 ∧
  ∀ (s : State) (p : Pending), s.pend = some p →
    (s.w = none → exec .chunkDataText s = .next (failed s .noChunk .success 0)) ∧
    ∀ c : Chunk, s.w = some c →
      (utf8Valid c.data = false → exec .chunkDataText s = .next (ended { s with outLen := 0, result := 0 })) ∧
      (utf8Valid c.data = true → s.cfg.obufSize < c.data.length →
        exec .chunkDataText s = .next (failed s .outputOverflow .success 0)) ∧
      (utf8Valid c.data = true → c.data.length ≤ s.cfg.obufSize →
        ∃ u, exec .chunkDataText s = .next u ∧
          u = { ended s with obuf := u.obuf, outLen := BitVec.ofNat 32 c.data.length, result := 1 } ∧
          wrote s u c.data)

/-- R123, R135: the wire form, and CHUNK_SERIALIZE. -/
def Obligations.ChunkSerializeOfW : Prop :=
  encode .chunkSerialize = 0x00000027 ∧
  (∀ c : Chunk, c.data.length < 2 ^ 32 → c.serialize = wireForm c ∧ (wireForm c).length = 12 + c.data.length) ∧
  ∀ (s : State) (p : Pending), s.pend = some p →
    (s.w = none → exec .chunkSerialize s = .next (failed s .noChunk .success 0)) ∧
    ∀ c : Chunk, s.w = some c → c.data.length < 2 ^ 32 →
      (s.cfg.obufSize < 12 + c.data.length →
        exec .chunkSerialize s = .next (failed s .outputOverflow .success 0)) ∧
      (12 + c.data.length ≤ s.cfg.obufSize →
        ∃ u, exec .chunkSerialize s = .next u ∧
          u = { ended s with obuf := u.obuf, outLen := BitVec.ofNat 32 (12 + c.data.length) } ∧
          wrote s u (wireForm c))

/-- R125: the round-trip laws of the chunk codec. -/
def Obligations.ChunkRoundTrip : Prop :=
  ∀ cfg : Params, cfg.ok = true →
    (∀ c : Chunk, c.wf cfg = true → parseChunk cfg c.serialize = .ok c) ∧
    ∀ (a b c d : Byte) (more : List Byte) (ch : Chunk), parseChunk cfg (a :: b :: c :: d :: more) = .ok ch →
      (ch.serialize = a :: b :: c :: d :: more ↔ packed ⟨a, b, c, d⟩ + 12 = more.length + 4) ∧
      ch.serialize = bigEndian (more.length + 4 - 12) ++ more

/-- R126: what a single flipped bit of a serialized chunk does to its parse. -/
def Obligations.SingleBitFlips : Prop :=
  ∀ (cfg : Params) (c : Chunk) (i j : Nat) (b : Byte),
    cfg.ok = true → c.wf cfg = true → j < 8 → c.serialize[i]? = some b →
      let flipped := b ^^^ BitVec.ofNat 8 (2 ^ j)
      let r := c.serialize.set i flipped
      (i < 4 → parseChunk cfg r = .ok c) ∧
      (4 ≤ i → i < 8 → ¬ alphabetic flipped → parseChunk cfg r = .error .invalidChunkType) ∧
      (4 ≤ i → i < 8 → alphabetic flipped → parseChunk cfg r = .error .crcMismatch) ∧
      (4 ≤ i → i < 8 → j = 5 → alphabetic flipped) ∧
      (8 ≤ i → parseChunk cfg r = .error .crcMismatch)

/-! ## The container -/

/-- R152: ParsePng record by record. After records that parsed to `L`, what the next bytes `r` do: the end, too few bytes, a
length past the end, a chunk that fails, a store that is full, or one more chunk. -/
def Obligations.ParsePngRecordByRecord : Prop :=
  ∀ cfg : Params, cfg.ok = true →
    (∀ r : List Byte, (r.length < 8 ∨ r.take 8 ≠ fileForm []) → parsePng cfg r = .error ⟨.badSignature, .success, 0⟩) ∧
    ∀ L : List Chunk, (∀ c ∈ L, c.wf cfg = true) → storeOK cfg L = true →
      parsePng cfg (fileForm L) = .ok L ∧
      (∀ r : List Byte, r ≠ [] → r.length < 12 →
        parsePng cfg (fileForm L ++ r) = .error ⟨.chunkParseFailure, .malformed, (fileForm L).length⟩) ∧
      ∀ (a b c d : Byte) (more : List Byte),
        let r := a :: b :: c :: d :: more
        let n := packed ⟨a, b, c, d⟩
        12 ≤ r.length →
          (r.length - 12 < n →
            parsePng cfg (fileForm L ++ r) = .error ⟨.chunkParseFailure, .malformed, (fileForm L).length⟩) ∧
          (∀ e, n ≤ r.length - 12 → parseChunk cfg (r.take (12 + n)) = .error e →
            parsePng cfg (fileForm L ++ r) = .error ⟨.chunkParseFailure, e, (fileForm L).length⟩) ∧
          ∀ ch, n ≤ r.length - 12 → parseChunk cfg (r.take (12 + n)) = .ok ch →
            (storeOK cfg (L ++ [ch]) = false →
              parsePng cfg (fileForm L ++ r) = .error ⟨.storeFull, .success, (fileForm L).length⟩) ∧
            ch.wf cfg = true ∧ fileForm L ++ r = fileForm (L ++ [ch]) ++ r.drop (12 + n)

/-- R154: the round-trip laws of the container. -/
def Obligations.ContainerRoundTrip : Prop :=
  ∀ cfg : Params, cfg.ok = true →
    (∀ (r : List Byte) (L : List Chunk), parsePng cfg r = .ok L → serializePng L = r) ∧
    ∀ L : List Chunk, (∀ c ∈ L, c.wf cfg = true) → storeOK cfg L = true → parsePng cfg (serializePng L) = .ok L

/-- R156: PNG_PARSE; on any failure S is unchanged. -/
def Obligations.PngParseReplacesTheStore : Prop :=
  encode .pngParse = 0x00000030 ∧
  ∀ (s : State) (p : Pending), s.pend = some p →
    (inputOutside s p → exec .pngParse s = .next (failed s .bufferRange .success 0)) ∧
    (inputMissing s p → exec .pngParse s = .fault .uninitInput) ∧
    (∀ r code sub off, inputIs s p r → parsePng s.cfg r = .error ⟨code, sub, off⟩ →
      exec .pngParse s = .next (failed s code sub (BitVec.ofNat 32 off)) ∧ (off < p.len.toNat ∨ off = 0) ∧
        ((code = .badSignature ∧ sub = .success ∧ off = 0) ∨ (code = .storeFull ∧ sub = .success) ∨
          (code = .chunkParseFailure ∧
            sub ∈ [ErrCode.malformed, .oversizedPayload, .invalidChunkType, .crcMismatch]))) ∧
    ∀ r L, inputIs s p r → parsePng s.cfg r = .ok L →
      exec .pngParse s = .next (ended { s with store := L, result := BitVec.ofNat 32 L.length })

/-- R157: PNG_APPEND. -/
def Obligations.PngAppendMovesW : Prop :=
  encode .pngAppend = 0x00000031 ∧
  ∀ (s : State) (p : Pending), s.pend = some p →
    (s.w = none → exec .pngAppend s = .next (failed s .noChunk .success 0)) ∧
    ∀ c : Chunk, s.w = some c →
      let fits := s.store.length + 1 ≤ s.cfg.maxChunks ∧
        (s.store.map (fun d => d.data.length)).sum + c.data.length ≤ s.cfg.storeBytes
      (fits → exec .pngAppend s = .next (ended { s with
        store := s.store ++ [c], w := none, result := BitVec.ofNat 32 (s.store.length + 1) })) ∧
      (¬ fits → exec .pngAppend s = .next (failed s .storeFull .success 0))

/-- R155, R158: PNG_FIND copies the first chunk of the key's type into W; S is never written. -/
def Obligations.PngFindCopiesTheFirst : Prop :=
  encode .pngFind = 0x00000032 ∧
  ∀ (s : State) (p : Pending) (t : TypeBytes), s.pend = some p → p.key.toNat = packed t →
    (∀ i c, firstOfType s.store t i c →
      exec .pngFind s = .next (ended { s with w := some c, found := true, result := BitVec.ofNat 32 i })) ∧
    ((∀ c ∈ s.store, c.type ≠ t) → exec .pngFind s = .next (ended { s with found := false, result := 0xFFFFFFFF }))

/-- R155, R159: PNG_REMOVE takes the first chunk of the key's type out of S into W. -/
def Obligations.PngRemoveTakesTheFirst : Prop :=
  encode .pngRemove = 0x00000033 ∧
  ∀ (s : State) (p : Pending) (t : TypeBytes), s.pend = some p → p.key.toNat = packed t →
    (∀ i c, firstOfType s.store t i c →
      exec .pngRemove s = .next (ended { s with
        w := some c, store := s.store.take i ++ s.store.drop (i + 1), found := true, result := BitVec.ofNat 32 i })) ∧
    ((∀ c ∈ s.store, c.type ≠ t) → exec .pngRemove s = .next (ended { s with found := false, result := 0xFFFFFFFF }))

/-- R159 (corner case, 90_conflicts C8): removing right after appending gives back the store and the chunk when the store
held no chunk of that type. -/
def Obligations.AppendThenRemoveGivesBack : Prop :=
  ∀ (s t : State) (p q : Pending) (c : Chunk),
    s.pend = some p → s.w = some c → (∀ d ∈ s.store, d.type ≠ c.type) → storeOK s.cfg (s.store ++ [c]) = true →
      exec .pngAppend s = .next t → q.key.toNat = packed c.type →
        ∃ u, exec .pngRemove { t with pend := some q } = .next u ∧ u.store = s.store ∧ u.w = some c ∧ u.found = true ∧
          u.result = BitVec.ofNat 32 s.store.length

/-- R160, R161: PNG_COUNT and PNG_GET. -/
def Obligations.PngCountAndGet : Prop :=
  encode .pngCount = 0x00000034 ∧ encode .pngGet = 0x00000035 ∧
  ∀ (s : State) (p : Pending), s.pend = some p →
    exec .pngCount s = .next (ended { s with result := BitVec.ofNat 32 s.store.length }) ∧
    (s.store.length ≤ p.idx.toNat → exec .pngGet s = .next (failed s .indexRange .success 0)) ∧
    ∀ h : p.idx.toNat < s.store.length, exec .pngGet s = .next (ended { s with w := some (s.store[p.idx.toNat]'h) })

/-- R153, R162: the serialized container, and PNG_SERIALIZE. -/
def Obligations.PngSerializeWritesTheContainer : Prop :=
  encode .pngSerialize = 0x00000036 ∧
  ∀ (s : State) (p : Pending), s.pend = some p → (∀ c ∈ s.store, c.data.length < 2 ^ 32) →
    serializePng s.store = fileForm s.store ∧
    (fileForm s.store).length = 8 + (s.store.map (fun c => 12 + c.data.length)).sum ∧
    (s.cfg.obufSize < (fileForm s.store).length →
      exec .pngSerialize s = .next (failed s .outputOverflow .success 0)) ∧
    ((fileForm s.store).length ≤ s.cfg.obufSize →
      ∃ u, exec .pngSerialize s = .next u ∧
        u = { ended s with obuf := u.obuf, outLen := BitVec.ofNat 32 (fileForm s.store).length } ∧
        wrote s u (fileForm s.store))

/-! ## Control -/

/-- R170, R171: NOP and ERR_CLEAR. -/
def Obligations.NopAndErrClear : Prop :=
  encode .nop = 0x00000000 ∧ encode .errClear = 0x0000003F ∧
  ∀ (s : State) (p : Pending), s.pend = some p →
    exec .nop s = .next (ended s) ∧
    exec .errClear s = .next (ended { s with sticky := false, overrun := false, errOffset := 0 })

/-! ## The whole machine -/

/-- R184, R185: every command that ends does so by `finish` or by `raise`; one that fails changes only the error record,
BUSY, DONE and PEND. -/
def Obligations.CommandsEndByFinishOrRaise : Prop :=
  ∀ (i : Instr) (s t : State), exec i s = .next t →
    t.busy = false ∧ t.done = true ∧ t.pend = none ∧
    (t.err = .success → t.suberr = .success ∧
      (i ≠ .errClear → t.sticky = s.sticky ∧ t.overrun = s.overrun ∧ t.errOffset = s.errOffset)) ∧
    (t.err ≠ .success → t = failed s t.err t.suberr t.errOffset)

/-- R16, R24 to R31, R34 to R36, R42, R43, R48: which commands write each piece of state, and that all else is unchanged. -/
def Obligations.WritersOfEachState : Prop :=
  ∀ (i : Instr) (s t : State), exec i s = .next t →
    (t.argAddr = s.argAddr ∧ t.argLen = s.argLen ∧ t.argType = s.argType ∧ t.argIndex = s.argIndex ∧
      t.resetIn = s.resetIn ∧ t.cfg = s.cfg ∧ t.events = s.events ∧ t.reads = s.reads ∧ t.draws = s.draws) ∧
    (∀ a, Memory.read t.ibuf a = Memory.read s.ibuf a) ∧
    (i ∉ [Instr.typeText, .chunkTypeText, .chunkDataText, .chunkSerialize, .pngSerialize] →
      t.outLen = s.outLen ∧ ∀ a, Memory.read t.obuf a = Memory.read s.obuf a) ∧
    (t.crc ≠ s.crc → i = .crcInit ∨ (∃ b, i = .crcByte b) ∨ i = .crcBuf) ∧
    (t.found ≠ s.found → i = .pngFind ∨ i = .pngRemove) ∧
    (t.ctype ≠ s.ctype → i ∈ [Instr.typeLoad, .typeLoadText, .chunkType]) ∧
    (t.w ≠ s.w → i ∈ [Instr.chunkBuild, .chunkParse, .pngFind, .pngRemove, .pngGet, .pngAppend]) ∧
    (t.w = none → s.w ≠ none → i = .pngAppend) ∧
    (t.store ≠ s.store → i ∈ [Instr.pngParse, .pngAppend, .pngRemove]) ∧
    (t.overrun ≠ s.overrun → i = .errClear) ∧
    (i ∈ [Instr.nop, .crcInit, .crcBuf, .typeLoad, .typeLoadText, .typeText, .chunkBuild, .chunkSerialize, .pngGet,
      .pngSerialize, .errClear] ∨ (∃ b, i = .crcByte b) → t.result = s.result)

/-- R19, R20, R187: what sets and what clears STICKY and OVERRUN, over every step. -/
def Obligations.StickyAndOverrunHistory : Prop :=
  ∀ s t : State, step s = .next t →
    (s.sticky = true → t.sticky = false → clearsErrors s) ∧
    (s.overrun = true → t.overrun = false → clearsErrors s) ∧
    (s.sticky = false → t.sticky = true → t.err ≠ .success ∧ t.done = true ∧ s.pend ≠ none) ∧
    (s.overrun = false → t.overrun = true → s.busy = true ∧ ∃ v rest, s.events = cmdWrite v :: rest)

/-- R190: when each model fault arises, exactly. Two points are the model's: a read of an unwritten OBUF cell while BUSY = 1
is a draw and no fault (log entry 6), and an IBUF write the bus does not admit is HostBusError also while BUSY = 1 (log
entry 7). -/
def Obligations.FaultsExactly : Prop :=
  ∀ s : State, s.cfg.ok = true →
    (step s = .fault .hostHazard ↔
      s.resetIn = false ∧ s.busy = true ∧
        ∃ a v rest, a < s.cfg.ibufSize ∧ s.events = .host (.write .ibuf a 8 v) :: rest) ∧
    (step s = .fault .uninitRead ↔
      s.resetIn = false ∧ ∃ a rest,
        (a < s.cfg.ibufSize ∧ Memory.read s.ibuf a = none ∧ s.events = .host (.read .ibuf a 8) :: rest) ∨
        (s.busy = false ∧ a < s.cfg.obufSize ∧ Memory.read s.obuf a = none ∧
          s.events = .host (.read .obuf a 8) :: rest)) ∧
    (step s = .fault .uninitInput ↔
      s.resetIn = false ∧ (s.events = [] ∨ ∃ rest, s.events = .engine :: rest) ∧
        ∃ p i, s.pend = some p ∧ decode p.cw = .command i ∧ inputMissing s p ∧
          (i ∈ [Instr.crcBuf, .crcChecksum, .chunkParse, .pngParse] ∨ (i = .typeLoadText ∧ p.len = 4) ∨
            (i = .chunkBuild ∧ s.ctype ≠ none ∧ p.len.toNat ≤ s.cfg.maxData))) ∧
    (step s = .fault .hostBusError ↔
      ∃ a rest, s.events = .host a :: rest ∧
        (s.resetIn = true ∨
          (∃ off w, (a = .read .reg off w ∨ ∃ v, a = .write .reg off w v) ∧ (w ≠ 32 ∨ off % 4 ≠ 0 ∨ 0x100 ≤ off)) ∨
          (∃ off w, (a = .read .ibuf off w ∨ ∃ v, a = .write .ibuf off w v) ∧ (w ≠ 8 ∨ s.cfg.ibufSize ≤ off)) ∨
          (∃ off w, a = .read .obuf off w ∧ (w ≠ 8 ∨ s.cfg.obufSize ≤ off)) ∨ ∃ off w v, a = .write .obuf off w v))

/-- R210: a host that keeps its four duties (and the bus's rules) meets no fault: every such step answers a next state. -/
def Obligations.HazardFreeStepsComplete : Prop :=
  ∀ s : State, s.cfg.ok = true → s.respectful → ∃ t, step s = .next t

/-- The invariant of the machine (Safety.lean: R5, R15, R30, R34 to R37, R42, R43, R120, R151, R182, R187, R200): every step
keeps it, and changes no parameter. -/
def Obligations.EveryStepKeepsTheInvariant : Prop :=
  ∀ s t : State, s.Inv → step s = .next t → t.Inv ∧ t.cfg = s.cfg

/-- The invariant holds after reset, for every choice of parameters R5 admits. -/
def Obligations.ResetMeetsTheInvariant : Prop :=
  State.reset.Inv ∧ ∀ cfg : Params, cfg.ok = true → (State.resetWith cfg).Inv
end

