-- ==== Sys2Proof/Laws/Container.lean ====
section
/-! SUPPORT. Small facts about the chunk store. -/

namespace Sys2Proof.Laws

open Sys2Proof.Machine

/-- An index that FindFirst answers is one of the list, so a lookup's copy `S[i]` exists. -/
theorem findFirst_lt {L : List Chunk} {t : TypeBytes} {i : Nat} (h : findFirst L t = some i) : i < L.length := by
  induction L generalizing i with
  | nil => cases h
  | cons c rest ih =>
    unfold findFirst at h
    split at h
    · cases h; simp
    · obtain ⟨j, hj, rfl⟩ := Option.map_eq_some_iff.mp h
      simpa using ih hj

@[simp] theorem storedBytes_nil : storedBytes [] = 0 := rfl

@[simp] theorem storedBytes_append (L M : List Chunk) : storedBytes (L ++ M) = storedBytes L + storedBytes M := by
  simp [storedBytes]

@[simp] theorem storedBytes_cons (c : Chunk) (L : List Chunk) : storedBytes (c :: L) = c.data.length + storedBytes L := rfl

theorem storeOK_iff {cfg : Params} {L : List Chunk} :
    storeOK cfg L = true ↔ L.length ≤ cfg.maxChunks ∧ storedBytes L ≤ cfg.storeBytes := by
  simp [storeOK]

end Sys2Proof.Laws
end

