-- ==== Sys2Proof/Laws/Memory.lean ====
section
/-! SUPPORT. The laws of the buffers: reads after writes, the canonical form, and what a range read answers. -/

namespace Sys2Proof.Laws

open Sys2Proof.Machine

@[simp] theorem read_nil (a : Nat) : Memory.read [] a = none := rfl

theorem read_cons (k : Nat) (b : Byte) (m : Memory) (a : Nat) :
    Memory.read ((k, b) :: m) a = if k = a then some b else Memory.read m a := rfl

/-- A read after a write: the value written at its own address, every other address as before. -/
theorem read_write (m : Memory) (a : Nat) (v : Byte) (x : Nat) :
    Memory.read (Memory.write m a v) x = if x = a then some v else Memory.read m x := by
  induction m with
  | nil => simp [Memory.write, read_cons, eq_comm]
  | cons c rest ih =>
    obtain ⟨k, b⟩ := c
    simp only [Memory.write]
    split_ifs with h₁ h₂ h₃ h₄ <;> simp only [read_cons, ih] <;> split_ifs <;> first | rfl | omega

/-- Every address a write lists is the one written or one listed before. -/
theorem mem_write {m : Memory} {a : Nat} {v : Byte} {c : Host.Cell} (h : c ∈ Memory.write m a v) :
    c.1 = a ∨ c ∈ m := by
  induction m with
  | nil => simp only [Memory.write, List.mem_singleton] at h; simp [h]
  | cons d rest ih =>
    obtain ⟨k, b⟩ := d
    simp only [Memory.write] at h
    split_ifs at h
    · rcases List.mem_cons.mp h with rfl | h
      · exact .inl rfl
      · exact .inr h
    · rcases List.mem_cons.mp h with rfl | h
      · exact .inl rfl
      · exact .inr (List.mem_cons_of_mem _ h)
    · rcases List.mem_cons.mp h with rfl | h
      · exact .inr (List.mem_cons_self ..)
      · exact (ih h).imp_right (List.mem_cons_of_mem _)

/-- A write keeps the canonical form. -/
theorem write_wf {m : Memory} (h : Memory.wf m) (a : Nat) (v : Byte) : Memory.wf (Memory.write m a v) := by
  induction m with
  | nil => simp [Memory.write, Memory.wf]
  | cons d rest ih =>
    obtain ⟨k, b⟩ := d
    have hr := List.pairwise_cons.mp h
    simp only [Memory.write]
    split_ifs with h₁ h₂
    · refine List.pairwise_cons.mpr ⟨fun c hc => ?_, h⟩
      rcases List.mem_cons.mp hc with rfl | hc
      · exact h₁
      · exact lt_trans h₁ (hr.1 c hc)
    · exact List.pairwise_cons.mpr ⟨fun c hc => h₂ ▸ hr.1 c hc, hr.2⟩
    · refine List.pairwise_cons.mpr ⟨fun c hc => ?_, ih hr.2⟩
      rcases mem_write hc with h | h
      · simp only [h]; omega
      · exact hr.1 c h

/-- A write inside the space keeps every cell inside the space. -/
theorem write_within {m : Memory} {size a : Nat} (h : Memory.within m size) (ha : a < size) (v : Byte) :
    Memory.within (Memory.write m a v) size := fun c hc => by
  rcases mem_write hc with e | e
  · exact e ▸ ha
  · exact h c e

/-- A read after a range write: the byte stored in the range, every other address as before. -/
theorem read_writeRange (bytes : List Byte) (m : Memory) (a x : Nat) :
    Memory.read (Memory.writeRange m a bytes) x =
      if a ≤ x ∧ x < a + bytes.length then bytes[x - a]? else Memory.read m x := by
  induction bytes generalizing m a with
  | nil => simp only [Memory.writeRange, List.length_nil]; rw [if_neg (by omega)]
  | cons b rest ih =>
    simp only [Memory.writeRange, ih, read_write, List.length_cons]
    by_cases hx : x = a
    · subst hx; simp
    · by_cases h : a + 1 ≤ x ∧ x < a + 1 + rest.length
      · rw [if_pos h, if_pos (by omega), show x - a = (x - (a + 1)) + 1 by omega, List.getElem?_cons_succ]
      · rw [if_neg h, if_neg hx, if_neg (by omega)]

/-- A range write keeps the canonical form. -/
theorem writeRange_wf (bytes : List Byte) {m : Memory} (h : Memory.wf m) (a : Nat) :
    Memory.wf (Memory.writeRange m a bytes) := by
  induction bytes generalizing m a with
  | nil => exact h
  | cons b rest ih => exact ih (write_wf h a b) (a + 1)

/-- A range write inside the space keeps every cell inside the space. -/
theorem writeRange_within (bytes : List Byte) {m : Memory} {size a : Nat} (h : Memory.within m size)
    (ha : a + bytes.length ≤ size) : Memory.within (Memory.writeRange m a bytes) size := by
  induction bytes generalizing m a with
  | nil => exact h
  | cons b rest ih =>
    simp only [List.length_cons] at ha
    exact ih (write_within h (by omega) b) (by omega)

/-- A range read answers exactly the bytes of the range, in address order. -/
theorem readRange_eq_some_iff {n a : Nat} {m : Memory} {bytes : List Byte} :
    Memory.readRange m a n = some bytes ↔
      bytes.length = n ∧ ∀ i < n, Memory.read m (a + i) = bytes[i]? := by
  induction n generalizing a bytes with
  | zero =>
    simp only [Memory.readRange, Option.some.injEq, Nat.not_lt_zero, false_imp_iff, implies_true, and_true,
      List.length_eq_zero_iff]
    exact eq_comm
  | succ k ih =>
    simp only [Memory.readRange]
    constructor
    · intro h
      split at h
      · cases h
      · rename_i b hb
        split at h
        · cases h
        · rename_i rest hr
          cases h
          obtain ⟨hl, hrest⟩ := ih.mp hr
          refine ⟨by simp [hl], fun i hi => ?_⟩
          cases i with
          | zero => simpa using hb
          | succ j =>
            rw [List.getElem?_cons_succ, ← hrest j (by omega)]
            congr 1; omega
    · rintro ⟨hl, h⟩
      cases bytes with
      | nil => simp at hl
      | cons b rest =>
        have h0 := h 0 (by omega)
        simp only [Nat.add_zero, List.getElem?_cons_zero] at h0
        have hr : Memory.readRange m (a + 1) k = some rest := by
          refine ih.mpr ⟨by simpa using hl, fun i hi => ?_⟩
          rw [← List.getElem?_cons_succ (a := b), ← h (i + 1) (by omega)]
          congr 1; omega
        simp [h0, hr]

/-- A range read answers nothing exactly when a cell of the range is unwritten. -/
theorem readRange_eq_none_iff {n a : Nat} {m : Memory} :
    Memory.readRange m a n = none ↔ ∃ i < n, Memory.read m (a + i) = none := by
  induction n generalizing a with
  | zero => simp [Memory.readRange]
  | succ k ih =>
    simp only [Memory.readRange]
    constructor
    · intro h
      split at h
      · rename_i hb; exact ⟨0, by omega, hb⟩
      · split at h
        · rename_i hr
          obtain ⟨i, hi, he⟩ := ih.mp hr
          exact ⟨i + 1, by omega, by rw [← he]; congr 1; omega⟩
        · cases h
    · rintro ⟨i, hi, he⟩
      cases i with
      | zero => simp only [Nat.add_zero] at he; simp [he]
      | succ j =>
        have hr : Memory.readRange m (a + 1) k = none :=
          ih.mpr ⟨j, by omega, by rw [← he]; congr 1; omega⟩
        split
        · rfl
        · simp [hr]

/-- Memory after reset is in its canonical form. -/
theorem reset_memory_wf : Memory.wf State.reset.ibuf ∧ Memory.wf State.reset.obuf := by
  constructor <;> exact List.Pairwise.nil

end Sys2Proof.Laws
end

