-- ==== Sys2Proof/Laws/State.lean ====
section
/-! SUPPORT. One lemma per field per named update of State, so that no proof unfolds an update. -/

namespace Sys2Proof.Laws

open Sys2Proof.Machine

@[simp] theorem finished_busy (s : State) : s.finished.busy = false := rfl
@[simp] theorem finished_done (s : State) : s.finished.done = true := rfl
@[simp] theorem finished_found (s : State) : s.finished.found = s.found := rfl
@[simp] theorem finished_sticky (s : State) : s.finished.sticky = s.sticky := rfl
@[simp] theorem finished_overrun (s : State) : s.finished.overrun = s.overrun := rfl
@[simp] theorem finished_err (s : State) : s.finished.err = .success := rfl
@[simp] theorem finished_suberr (s : State) : s.finished.suberr = .success := rfl
@[simp] theorem finished_argAddr (s : State) : s.finished.argAddr = s.argAddr := rfl
@[simp] theorem finished_argLen (s : State) : s.finished.argLen = s.argLen := rfl
@[simp] theorem finished_argType (s : State) : s.finished.argType = s.argType := rfl
@[simp] theorem finished_argIndex (s : State) : s.finished.argIndex = s.argIndex := rfl
@[simp] theorem finished_result (s : State) : s.finished.result = s.result := rfl
@[simp] theorem finished_crc (s : State) : s.finished.crc = s.crc := rfl
@[simp] theorem finished_outLen (s : State) : s.finished.outLen = s.outLen := rfl
@[simp] theorem finished_errOffset (s : State) : s.finished.errOffset = s.errOffset := rfl
@[simp] theorem finished_ctype (s : State) : s.finished.ctype = s.ctype := rfl
@[simp] theorem finished_w (s : State) : s.finished.w = s.w := rfl
@[simp] theorem finished_store (s : State) : s.finished.store = s.store := rfl
@[simp] theorem finished_pend (s : State) : s.finished.pend = none := rfl
@[simp] theorem finished_ibuf (s : State) : s.finished.ibuf = s.ibuf := rfl
@[simp] theorem finished_obuf (s : State) : s.finished.obuf = s.obuf := rfl
@[simp] theorem finished_resetIn (s : State) : s.finished.resetIn = s.resetIn := rfl
@[simp] theorem finished_cfg (s : State) : s.finished.cfg = s.cfg := rfl
@[simp] theorem finished_events (s : State) : s.finished.events = s.events := rfl
@[simp] theorem finished_reads (s : State) : s.finished.reads = s.reads := rfl
@[simp] theorem finished_draws (s : State) : s.finished.draws = s.draws := rfl

@[simp] theorem raised_busy (s : State) (e sub : ErrCode) (off : Nat) : (s.raised e sub off).busy = false := rfl
@[simp] theorem raised_done (s : State) (e sub : ErrCode) (off : Nat) : (s.raised e sub off).done = true := rfl
@[simp] theorem raised_found (s : State) (e sub : ErrCode) (off : Nat) : (s.raised e sub off).found = s.found := rfl
@[simp] theorem raised_sticky (s : State) (e sub : ErrCode) (off : Nat) : (s.raised e sub off).sticky = true := rfl
@[simp] theorem raised_overrun (s : State) (e sub : ErrCode) (off : Nat) : (s.raised e sub off).overrun = s.overrun := rfl
@[simp] theorem raised_err (s : State) (e sub : ErrCode) (off : Nat) : (s.raised e sub off).err = e := rfl
@[simp] theorem raised_suberr (s : State) (e sub : ErrCode) (off : Nat) : (s.raised e sub off).suberr = sub := rfl
@[simp] theorem raised_argAddr (s : State) (e sub : ErrCode) (off : Nat) : (s.raised e sub off).argAddr = s.argAddr := rfl
@[simp] theorem raised_argLen (s : State) (e sub : ErrCode) (off : Nat) : (s.raised e sub off).argLen = s.argLen := rfl
@[simp] theorem raised_argType (s : State) (e sub : ErrCode) (off : Nat) : (s.raised e sub off).argType = s.argType := rfl
@[simp] theorem raised_argIndex (s : State) (e sub : ErrCode) (off : Nat) : (s.raised e sub off).argIndex = s.argIndex := rfl
@[simp] theorem raised_result (s : State) (e sub : ErrCode) (off : Nat) : (s.raised e sub off).result = s.result := rfl
@[simp] theorem raised_crc (s : State) (e sub : ErrCode) (off : Nat) : (s.raised e sub off).crc = s.crc := rfl
@[simp] theorem raised_outLen (s : State) (e sub : ErrCode) (off : Nat) : (s.raised e sub off).outLen = s.outLen := rfl
@[simp] theorem raised_errOffset (s : State) (e sub : ErrCode) (off : Nat) : (s.raised e sub off).errOffset = BitVec.ofNat 32 off := rfl
@[simp] theorem raised_ctype (s : State) (e sub : ErrCode) (off : Nat) : (s.raised e sub off).ctype = s.ctype := rfl
@[simp] theorem raised_w (s : State) (e sub : ErrCode) (off : Nat) : (s.raised e sub off).w = s.w := rfl
@[simp] theorem raised_store (s : State) (e sub : ErrCode) (off : Nat) : (s.raised e sub off).store = s.store := rfl
@[simp] theorem raised_pend (s : State) (e sub : ErrCode) (off : Nat) : (s.raised e sub off).pend = none := rfl
@[simp] theorem raised_ibuf (s : State) (e sub : ErrCode) (off : Nat) : (s.raised e sub off).ibuf = s.ibuf := rfl
@[simp] theorem raised_obuf (s : State) (e sub : ErrCode) (off : Nat) : (s.raised e sub off).obuf = s.obuf := rfl
@[simp] theorem raised_resetIn (s : State) (e sub : ErrCode) (off : Nat) : (s.raised e sub off).resetIn = s.resetIn := rfl
@[simp] theorem raised_cfg (s : State) (e sub : ErrCode) (off : Nat) : (s.raised e sub off).cfg = s.cfg := rfl
@[simp] theorem raised_events (s : State) (e sub : ErrCode) (off : Nat) : (s.raised e sub off).events = s.events := rfl
@[simp] theorem raised_reads (s : State) (e sub : ErrCode) (off : Nat) : (s.raised e sub off).reads = s.reads := rfl
@[simp] theorem raised_draws (s : State) (e sub : ErrCode) (off : Nat) : (s.raised e sub off).draws = s.draws := rfl

@[simp] theorem output_busy (s : State) (bytes : List Byte) : (s.output bytes).busy = s.busy := rfl
@[simp] theorem output_done (s : State) (bytes : List Byte) : (s.output bytes).done = s.done := rfl
@[simp] theorem output_found (s : State) (bytes : List Byte) : (s.output bytes).found = s.found := rfl
@[simp] theorem output_sticky (s : State) (bytes : List Byte) : (s.output bytes).sticky = s.sticky := rfl
@[simp] theorem output_overrun (s : State) (bytes : List Byte) : (s.output bytes).overrun = s.overrun := rfl
@[simp] theorem output_err (s : State) (bytes : List Byte) : (s.output bytes).err = s.err := rfl
@[simp] theorem output_suberr (s : State) (bytes : List Byte) : (s.output bytes).suberr = s.suberr := rfl
@[simp] theorem output_argAddr (s : State) (bytes : List Byte) : (s.output bytes).argAddr = s.argAddr := rfl
@[simp] theorem output_argLen (s : State) (bytes : List Byte) : (s.output bytes).argLen = s.argLen := rfl
@[simp] theorem output_argType (s : State) (bytes : List Byte) : (s.output bytes).argType = s.argType := rfl
@[simp] theorem output_argIndex (s : State) (bytes : List Byte) : (s.output bytes).argIndex = s.argIndex := rfl
@[simp] theorem output_result (s : State) (bytes : List Byte) : (s.output bytes).result = s.result := rfl
@[simp] theorem output_crc (s : State) (bytes : List Byte) : (s.output bytes).crc = s.crc := rfl
@[simp] theorem output_outLen (s : State) (bytes : List Byte) : (s.output bytes).outLen = BitVec.ofNat 32 bytes.length := rfl
@[simp] theorem output_errOffset (s : State) (bytes : List Byte) : (s.output bytes).errOffset = s.errOffset := rfl
@[simp] theorem output_ctype (s : State) (bytes : List Byte) : (s.output bytes).ctype = s.ctype := rfl
@[simp] theorem output_w (s : State) (bytes : List Byte) : (s.output bytes).w = s.w := rfl
@[simp] theorem output_store (s : State) (bytes : List Byte) : (s.output bytes).store = s.store := rfl
@[simp] theorem output_pend (s : State) (bytes : List Byte) : (s.output bytes).pend = s.pend := rfl
@[simp] theorem output_ibuf (s : State) (bytes : List Byte) : (s.output bytes).ibuf = s.ibuf := rfl
@[simp] theorem output_obuf (s : State) (bytes : List Byte) : (s.output bytes).obuf = Memory.writeRange s.obuf 0 bytes := rfl
@[simp] theorem output_resetIn (s : State) (bytes : List Byte) : (s.output bytes).resetIn = s.resetIn := rfl
@[simp] theorem output_cfg (s : State) (bytes : List Byte) : (s.output bytes).cfg = s.cfg := rfl
@[simp] theorem output_events (s : State) (bytes : List Byte) : (s.output bytes).events = s.events := rfl
@[simp] theorem output_reads (s : State) (bytes : List Byte) : (s.output bytes).reads = s.reads := rfl
@[simp] theorem output_draws (s : State) (bytes : List Byte) : (s.output bytes).draws = s.draws := rfl

@[simp] theorem accepted_busy (s : State) (v : Word) : (s.accepted v).busy = true := rfl
@[simp] theorem accepted_done (s : State) (v : Word) : (s.accepted v).done = false := rfl
@[simp] theorem accepted_found (s : State) (v : Word) : (s.accepted v).found = s.found := rfl
@[simp] theorem accepted_sticky (s : State) (v : Word) : (s.accepted v).sticky = s.sticky := rfl
@[simp] theorem accepted_overrun (s : State) (v : Word) : (s.accepted v).overrun = s.overrun := rfl
@[simp] theorem accepted_err (s : State) (v : Word) : (s.accepted v).err = s.err := rfl
@[simp] theorem accepted_suberr (s : State) (v : Word) : (s.accepted v).suberr = s.suberr := rfl
@[simp] theorem accepted_argAddr (s : State) (v : Word) : (s.accepted v).argAddr = s.argAddr := rfl
@[simp] theorem accepted_argLen (s : State) (v : Word) : (s.accepted v).argLen = s.argLen := rfl
@[simp] theorem accepted_argType (s : State) (v : Word) : (s.accepted v).argType = s.argType := rfl
@[simp] theorem accepted_argIndex (s : State) (v : Word) : (s.accepted v).argIndex = s.argIndex := rfl
@[simp] theorem accepted_result (s : State) (v : Word) : (s.accepted v).result = s.result := rfl
@[simp] theorem accepted_crc (s : State) (v : Word) : (s.accepted v).crc = s.crc := rfl
@[simp] theorem accepted_outLen (s : State) (v : Word) : (s.accepted v).outLen = s.outLen := rfl
@[simp] theorem accepted_errOffset (s : State) (v : Word) : (s.accepted v).errOffset = s.errOffset := rfl
@[simp] theorem accepted_ctype (s : State) (v : Word) : (s.accepted v).ctype = s.ctype := rfl
@[simp] theorem accepted_w (s : State) (v : Word) : (s.accepted v).w = s.w := rfl
@[simp] theorem accepted_store (s : State) (v : Word) : (s.accepted v).store = s.store := rfl
@[simp] theorem accepted_pend (s : State) (v : Word) : (s.accepted v).pend = some ⟨v, s.argAddr, s.argLen, s.argType, s.argIndex⟩ := rfl
@[simp] theorem accepted_ibuf (s : State) (v : Word) : (s.accepted v).ibuf = s.ibuf := rfl
@[simp] theorem accepted_obuf (s : State) (v : Word) : (s.accepted v).obuf = s.obuf := rfl
@[simp] theorem accepted_resetIn (s : State) (v : Word) : (s.accepted v).resetIn = s.resetIn := rfl
@[simp] theorem accepted_cfg (s : State) (v : Word) : (s.accepted v).cfg = s.cfg := rfl
@[simp] theorem accepted_events (s : State) (v : Word) : (s.accepted v).events = s.events := rfl
@[simp] theorem accepted_reads (s : State) (v : Word) : (s.accepted v).reads = s.reads := rfl
@[simp] theorem accepted_draws (s : State) (v : Word) : (s.accepted v).draws = s.draws := rfl

@[simp] theorem resetBlock_busy (s : State) : s.resetBlock.busy = false := rfl
@[simp] theorem resetBlock_done (s : State) : s.resetBlock.done = false := rfl
@[simp] theorem resetBlock_found (s : State) : s.resetBlock.found = false := rfl
@[simp] theorem resetBlock_sticky (s : State) : s.resetBlock.sticky = false := rfl
@[simp] theorem resetBlock_overrun (s : State) : s.resetBlock.overrun = false := rfl
@[simp] theorem resetBlock_err (s : State) : s.resetBlock.err = .success := rfl
@[simp] theorem resetBlock_suberr (s : State) : s.resetBlock.suberr = .success := rfl
@[simp] theorem resetBlock_argAddr (s : State) : s.resetBlock.argAddr = 0x00000000 := rfl
@[simp] theorem resetBlock_argLen (s : State) : s.resetBlock.argLen = 0x00000000 := rfl
@[simp] theorem resetBlock_argType (s : State) : s.resetBlock.argType = 0x00000000 := rfl
@[simp] theorem resetBlock_argIndex (s : State) : s.resetBlock.argIndex = 0x00000000 := rfl
@[simp] theorem resetBlock_result (s : State) : s.resetBlock.result = 0x00000000 := rfl
@[simp] theorem resetBlock_crc (s : State) : s.resetBlock.crc = 0xFFFFFFFF := rfl
@[simp] theorem resetBlock_outLen (s : State) : s.resetBlock.outLen = 0x00000000 := rfl
@[simp] theorem resetBlock_errOffset (s : State) : s.resetBlock.errOffset = 0x00000000 := rfl
@[simp] theorem resetBlock_ctype (s : State) : s.resetBlock.ctype = none := rfl
@[simp] theorem resetBlock_w (s : State) : s.resetBlock.w = none := rfl
@[simp] theorem resetBlock_store (s : State) : s.resetBlock.store = [] := rfl
@[simp] theorem resetBlock_pend (s : State) : s.resetBlock.pend = none := rfl
@[simp] theorem resetBlock_ibuf (s : State) : s.resetBlock.ibuf = [] := rfl
@[simp] theorem resetBlock_obuf (s : State) : s.resetBlock.obuf = [] := rfl
@[simp] theorem resetBlock_resetIn (s : State) : s.resetBlock.resetIn = s.resetIn := rfl
@[simp] theorem resetBlock_cfg (s : State) : s.resetBlock.cfg = s.cfg := rfl
@[simp] theorem resetBlock_events (s : State) : s.resetBlock.events = s.events := rfl
@[simp] theorem resetBlock_reads (s : State) : s.resetBlock.reads = s.reads := rfl
@[simp] theorem resetBlock_draws (s : State) : s.resetBlock.draws = s.draws := rfl

@[simp] theorem deliver_busy (s : State) (v : ReadValue) : (s.deliver v).busy = s.busy := rfl
@[simp] theorem deliver_done (s : State) (v : ReadValue) : (s.deliver v).done = s.done := rfl
@[simp] theorem deliver_found (s : State) (v : ReadValue) : (s.deliver v).found = s.found := rfl
@[simp] theorem deliver_sticky (s : State) (v : ReadValue) : (s.deliver v).sticky = s.sticky := rfl
@[simp] theorem deliver_overrun (s : State) (v : ReadValue) : (s.deliver v).overrun = s.overrun := rfl
@[simp] theorem deliver_err (s : State) (v : ReadValue) : (s.deliver v).err = s.err := rfl
@[simp] theorem deliver_suberr (s : State) (v : ReadValue) : (s.deliver v).suberr = s.suberr := rfl
@[simp] theorem deliver_argAddr (s : State) (v : ReadValue) : (s.deliver v).argAddr = s.argAddr := rfl
@[simp] theorem deliver_argLen (s : State) (v : ReadValue) : (s.deliver v).argLen = s.argLen := rfl
@[simp] theorem deliver_argType (s : State) (v : ReadValue) : (s.deliver v).argType = s.argType := rfl
@[simp] theorem deliver_argIndex (s : State) (v : ReadValue) : (s.deliver v).argIndex = s.argIndex := rfl
@[simp] theorem deliver_result (s : State) (v : ReadValue) : (s.deliver v).result = s.result := rfl
@[simp] theorem deliver_crc (s : State) (v : ReadValue) : (s.deliver v).crc = s.crc := rfl
@[simp] theorem deliver_outLen (s : State) (v : ReadValue) : (s.deliver v).outLen = s.outLen := rfl
@[simp] theorem deliver_errOffset (s : State) (v : ReadValue) : (s.deliver v).errOffset = s.errOffset := rfl
@[simp] theorem deliver_ctype (s : State) (v : ReadValue) : (s.deliver v).ctype = s.ctype := rfl
@[simp] theorem deliver_w (s : State) (v : ReadValue) : (s.deliver v).w = s.w := rfl
@[simp] theorem deliver_store (s : State) (v : ReadValue) : (s.deliver v).store = s.store := rfl
@[simp] theorem deliver_pend (s : State) (v : ReadValue) : (s.deliver v).pend = s.pend := rfl
@[simp] theorem deliver_ibuf (s : State) (v : ReadValue) : (s.deliver v).ibuf = s.ibuf := rfl
@[simp] theorem deliver_obuf (s : State) (v : ReadValue) : (s.deliver v).obuf = s.obuf := rfl
@[simp] theorem deliver_resetIn (s : State) (v : ReadValue) : (s.deliver v).resetIn = s.resetIn := rfl
@[simp] theorem deliver_cfg (s : State) (v : ReadValue) : (s.deliver v).cfg = s.cfg := rfl
@[simp] theorem deliver_events (s : State) (v : ReadValue) : (s.deliver v).events = s.events := rfl
@[simp] theorem deliver_reads (s : State) (v : ReadValue) : (s.deliver v).reads = v :: s.reads := rfl
@[simp] theorem deliver_draws (s : State) (v : ReadValue) : (s.deliver v).draws = s.draws := rfl

@[simp] theorem deliverDraw_busy (s : State) (f : Word → ReadValue) : (s.deliverDraw f).busy = s.busy := rfl
@[simp] theorem deliverDraw_done (s : State) (f : Word → ReadValue) : (s.deliverDraw f).done = s.done := rfl
@[simp] theorem deliverDraw_found (s : State) (f : Word → ReadValue) : (s.deliverDraw f).found = s.found := rfl
@[simp] theorem deliverDraw_sticky (s : State) (f : Word → ReadValue) : (s.deliverDraw f).sticky = s.sticky := rfl
@[simp] theorem deliverDraw_overrun (s : State) (f : Word → ReadValue) : (s.deliverDraw f).overrun = s.overrun := rfl
@[simp] theorem deliverDraw_err (s : State) (f : Word → ReadValue) : (s.deliverDraw f).err = s.err := rfl
@[simp] theorem deliverDraw_suberr (s : State) (f : Word → ReadValue) : (s.deliverDraw f).suberr = s.suberr := rfl
@[simp] theorem deliverDraw_argAddr (s : State) (f : Word → ReadValue) : (s.deliverDraw f).argAddr = s.argAddr := rfl
@[simp] theorem deliverDraw_argLen (s : State) (f : Word → ReadValue) : (s.deliverDraw f).argLen = s.argLen := rfl
@[simp] theorem deliverDraw_argType (s : State) (f : Word → ReadValue) : (s.deliverDraw f).argType = s.argType := rfl
@[simp] theorem deliverDraw_argIndex (s : State) (f : Word → ReadValue) : (s.deliverDraw f).argIndex = s.argIndex := rfl
@[simp] theorem deliverDraw_result (s : State) (f : Word → ReadValue) : (s.deliverDraw f).result = s.result := rfl
@[simp] theorem deliverDraw_crc (s : State) (f : Word → ReadValue) : (s.deliverDraw f).crc = s.crc := rfl
@[simp] theorem deliverDraw_outLen (s : State) (f : Word → ReadValue) : (s.deliverDraw f).outLen = s.outLen := rfl
@[simp] theorem deliverDraw_errOffset (s : State) (f : Word → ReadValue) : (s.deliverDraw f).errOffset = s.errOffset := rfl
@[simp] theorem deliverDraw_ctype (s : State) (f : Word → ReadValue) : (s.deliverDraw f).ctype = s.ctype := rfl
@[simp] theorem deliverDraw_w (s : State) (f : Word → ReadValue) : (s.deliverDraw f).w = s.w := rfl
@[simp] theorem deliverDraw_store (s : State) (f : Word → ReadValue) : (s.deliverDraw f).store = s.store := rfl
@[simp] theorem deliverDraw_pend (s : State) (f : Word → ReadValue) : (s.deliverDraw f).pend = s.pend := rfl
@[simp] theorem deliverDraw_ibuf (s : State) (f : Word → ReadValue) : (s.deliverDraw f).ibuf = s.ibuf := rfl
@[simp] theorem deliverDraw_obuf (s : State) (f : Word → ReadValue) : (s.deliverDraw f).obuf = s.obuf := rfl
@[simp] theorem deliverDraw_resetIn (s : State) (f : Word → ReadValue) : (s.deliverDraw f).resetIn = s.resetIn := rfl
@[simp] theorem deliverDraw_cfg (s : State) (f : Word → ReadValue) : (s.deliverDraw f).cfg = s.cfg := rfl
@[simp] theorem deliverDraw_events (s : State) (f : Word → ReadValue) : (s.deliverDraw f).events = s.events := rfl
@[simp] theorem deliverDraw_reads (s : State) (f : Word → ReadValue) : (s.deliverDraw f).reads = f (Config.draw s.draws) :: s.reads := rfl
@[simp] theorem deliverDraw_draws (s : State) (f : Word → ReadValue) : (s.deliverDraw f).draws = s.draws + 1 := rfl

end Sys2Proof.Laws
end

