-- ==== Sys2Proof/Laws/Ops.lean ====
section
/-! SUPPORT. What each shared operation of the commands can answer, said once. -/

namespace Sys2Proof.Laws

open Sys2Proof.Machine

variable {s t : State} {p : Pending} {f : Fault}

@[simp] theorem finish_eq (s : State) : finish s = .next s.finished := rfl

@[simp] theorem raise_eq (s : State) (e sub : ErrCode) (off : Nat) : raise s e sub off = .next (s.raised e sub off) := rfl

theorem whenPending_some {k : Pending → Result} (h : s.pend = some p) : whenPending s k = k p := by
  simp [whenPending, h]

theorem whenPending_next {k : Pending → Result} (h : whenPending s k = .next t) :
    ∃ p, s.pend = some p ∧ k p = .next t := by
  unfold whenPending at h
  split at h
  · cases h
  · exact ⟨_, ‹_›, h⟩

theorem whenPending_fault {k : Pending → Result} (h : whenPending s k = .fault f) :
    ∃ p, s.pend = some p ∧ k p = .fault f := by
  unfold whenPending at h
  split at h
  · cases h
  · exact ⟨_, ‹_›, h⟩

theorem checkRange_of_le {k : Result} (h : p.addr.toNat + p.len.toNat ≤ s.cfg.ibufSize) : checkRange s p k = k :=
  if_pos h

theorem checkRange_of_gt {k : Result} (h : s.cfg.ibufSize < p.addr.toNat + p.len.toNat) :
    checkRange s p k = .next (s.raised .bufferRange .success 0) := if_neg (by omega)

theorem checkRange_next {k : Result} (h : checkRange s p k = .next t) :
    (p.addr.toNat + p.len.toNat ≤ s.cfg.ibufSize ∧ k = .next t) ∨
      (s.cfg.ibufSize < p.addr.toNat + p.len.toNat ∧ t = s.raised .bufferRange .success 0) := by
  unfold checkRange at h
  split at h
  · exact .inl ⟨‹_›, h⟩
  · cases h; exact .inr ⟨by omega, rfl⟩

theorem checkRange_fault {k : Result} (h : checkRange s p k = .fault f) :
    p.addr.toNat + p.len.toNat ≤ s.cfg.ibufSize ∧ k = .fault f := by
  unfold checkRange at h
  split at h
  · exact ⟨‹_›, h⟩
  · cases h

/-- MemRead over a written range gives its bytes. -/
theorem memRead_of_written {k : List Byte → Result} {a : Nat} {bytes : List Byte}
    (h : ∀ i < bytes.length, Memory.read s.ibuf (a + i) = bytes[i]?) :
    memRead s a bytes.length k = k bytes := by
  unfold memRead
  rw [readRange_eq_some_iff.mpr ⟨rfl, h⟩]

/-- MemRead over a range with an unwritten cell is the model fault. -/
theorem memRead_of_unwritten {k : List Byte → Result} {a n : Nat} (h : ∃ i < n, Memory.read s.ibuf (a + i) = none) :
    memRead s a n k = .fault .uninitInput := by
  unfold memRead
  rw [readRange_eq_none_iff.mpr h]

theorem memRead_next {k : List Byte → Result} {a n : Nat} (h : memRead s a n k = .next t) :
    ∃ bytes, bytes.length = n ∧ (∀ i < n, Memory.read s.ibuf (a + i) = bytes[i]?) ∧ k bytes = .next t := by
  unfold memRead at h
  split at h
  · cases h
  · rename_i bytes hb
    obtain ⟨h₁, h₂⟩ := readRange_eq_some_iff.mp hb
    exact ⟨bytes, h₁, h₂, h⟩

theorem needType_some {k : TypeBytes → Result} {ty : TypeBytes} (h : s.ctype = some ty) : needType s k = k ty := by
  simp [needType, h]

theorem needType_none {k : TypeBytes → Result} (h : s.ctype = none) :
    needType s k = .next (s.raised .noChunkType .success 0) := by simp [needType, h]

theorem needType_next {k : TypeBytes → Result} (h : needType s k = .next t) :
    (∃ ty, s.ctype = some ty ∧ k ty = .next t) ∨ (s.ctype = none ∧ t = s.raised .noChunkType .success 0) := by
  unfold needType at h
  split at h
  · cases h; exact .inr ⟨‹_›, rfl⟩
  · exact .inl ⟨_, ‹_›, h⟩

theorem needChunk_some {k : Chunk → Result} {c : Chunk} (h : s.w = some c) : needChunk s k = k c := by
  simp [needChunk, h]

theorem needChunk_none {k : Chunk → Result} (h : s.w = none) :
    needChunk s k = .next (s.raised .noChunk .success 0) := by simp [needChunk, h]

theorem needChunk_next {k : Chunk → Result} (h : needChunk s k = .next t) :
    (∃ c, s.w = some c ∧ k c = .next t) ∨ (s.w = none ∧ t = s.raised .noChunk .success 0) := by
  unfold needChunk at h
  split at h
  · cases h; exact .inr ⟨‹_›, rfl⟩
  · exact .inl ⟨_, ‹_›, h⟩

theorem checkOutput_next {k : Result} {n : Nat} (h : checkOutput s n k = .next t) :
    (n ≤ s.cfg.obufSize ∧ k = .next t) ∨ (s.cfg.obufSize < n ∧ t = s.raised .outputOverflow .success 0) := by
  unfold checkOutput at h
  split at h
  · cases h; exact .inr ⟨by omega, rfl⟩
  · exact .inl ⟨by omega, h⟩

theorem checkOutput_of_le {k : Result} {n : Nat} (h : n ≤ s.cfg.obufSize) : checkOutput s n k = k :=
  if_neg (by omega)

theorem checkOutput_of_gt {k : Result} {n : Nat} (h : s.cfg.obufSize < n) :
    checkOutput s n k = .next (s.raised .outputOverflow .success 0) := if_pos h

/-- What an OBUF-writing command's output reads as: its bytes from address 0, every other cell as before. -/
theorem read_output (s : State) (bytes : List Byte) (a : Nat) :
    Memory.read (s.output bytes).obuf a = if a < bytes.length then bytes[a]? else Memory.read s.obuf a := by
  simp [read_writeRange]

end Sys2Proof.Laws
end

