-- ==== Sys2Proof/Laws/PerInstr.lean ====
section
/-! SUPPORT. Facts stated per instruction: its encoding is well formed and lies in its row of spec/opcode_table.json
(spec/30_encoding.md R65). -/

namespace Sys2Proof.Laws.Encoding

/-- The command is well formed, and its word has the row's `match` under the row's `mask`. -/
def Statement (i : Instr) : Prop := i.wellFormed = true ∧ encode i &&& maskWord i = matchWord i

/-- The words of the two I-class commands keep their opcode under the mask, whatever IMM is. -/
theorem crcByte_word : ∀ imm : Byte, encode (.crcByte imm) &&& 0xFFFF00FF = 0x00000002 := by decide +kernel

theorem crcTable_word : ∀ imm : Byte, encode (.crcTable imm) &&& 0xFFFF00FF = 0x00000006 := by decide +kernel

theorem nop : Statement .nop := by unfold Statement; decide
theorem crcInit : Statement .crcInit := by unfold Statement; decide
theorem crcByte (imm : Byte) : Statement (.crcByte imm) := ⟨rfl, crcByte_word imm⟩
theorem crcBuf : Statement .crcBuf := by unfold Statement; decide
theorem crcFinal : Statement .crcFinal := by unfold Statement; decide
theorem crcChecksum : Statement .crcChecksum := by unfold Statement; decide
theorem crcTable (imm : Byte) : Statement (.crcTable imm) := ⟨rfl, crcTable_word imm⟩
theorem typeLoad : Statement .typeLoad := by unfold Statement; decide
theorem typeLoadText : Statement .typeLoadText := by unfold Statement; decide
theorem typeIsCritical : Statement .typeIsCritical := by unfold Statement; decide
theorem typeIsPublic : Statement .typeIsPublic := by unfold Statement; decide
theorem typeIsReservedValid : Statement .typeIsReservedValid := by unfold Statement; decide
theorem typeIsSafeToCopy : Statement .typeIsSafeToCopy := by unfold Statement; decide
theorem typeIsValid : Statement .typeIsValid := by unfold Statement; decide
theorem typeBytes : Statement .typeBytes := by unfold Statement; decide
theorem typeText : Statement .typeText := by unfold Statement; decide
theorem chunkBuild : Statement .chunkBuild := by unfold Statement; decide
theorem chunkParse : Statement .chunkParse := by unfold Statement; decide
theorem chunkLength : Statement .chunkLength := by unfold Statement; decide
theorem chunkCrc : Statement .chunkCrc := by unfold Statement; decide
theorem chunkType : Statement .chunkType := by unfold Statement; decide
theorem chunkTypeText : Statement .chunkTypeText := by unfold Statement; decide
theorem chunkDataText : Statement .chunkDataText := by unfold Statement; decide
theorem chunkSerialize : Statement .chunkSerialize := by unfold Statement; decide
theorem pngParse : Statement .pngParse := by unfold Statement; decide
theorem pngAppend : Statement .pngAppend := by unfold Statement; decide
theorem pngFind : Statement .pngFind := by unfold Statement; decide
theorem pngRemove : Statement .pngRemove := by unfold Statement; decide
theorem pngCount : Statement .pngCount := by unfold Statement; decide
theorem pngGet : Statement .pngGet := by unfold Statement; decide
theorem pngSerialize : Statement .pngSerialize := by unfold Statement; decide
theorem errClear : Statement .errClear := by unfold Statement; decide

end Sys2Proof.Laws.Encoding
end

