-- ==== Sys2Proof/Laws/Step.lean ====
section
/-! SUPPORT. What one step can do, said once: its equations by the next event, and the cases of a step that answers a next
state. -/

namespace Sys2Proof.Laws

open Sys2Proof.Machine

variable {s t : State}

theorem step_of_not_ok (h : s.cfg.ok = false) : step s = .refused .badConfiguration := by simp [step, h]

theorem step_of_idle (h : s.cfg.ok = true) (he : s.events = []) : step s = engineTurn s := by simp [step, h, he]

theorem step_of_event {e : Event} {rest : List Event} (h : s.cfg.ok = true) (he : s.events = e :: rest) :
    step s = eventTurn e { s with events := rest } := by simp [step, h, he]

theorem engineTurn_of_reset (h : s.resetIn = true) : engineTurn s = .next s.resetBlock := by simp [engineTurn, h]

theorem engineTurn_of_none (h : s.resetIn = false) (hp : s.pend = none) : engineTurn s = .next s := by
  simp [engineTurn, h, hp]

theorem engineTurn_of_some {p : Pending} (h : s.resetIn = false) (hp : s.pend = some p) :
    engineTurn s = executeWord s p.cw := by simp [engineTurn, h, hp]

/-- The cases of an engine turn that answers a next state. -/
theorem engineTurn_next (h : engineTurn s = .next t) :
    (s.resetIn = true ∧ t = s.resetBlock) ∨ (s.resetIn = false ∧ s.pend = none ∧ t = s) ∨
      (s.resetIn = false ∧ ∃ p, s.pend = some p ∧ executeWord s p.cw = .next t) := by
  unfold engineTurn at h
  split at h
  · cases h; exact .inl ⟨‹_›, rfl⟩
  · have hr : s.resetIn = false := by simpa using ‹¬ s.resetIn = true›
    split at h
    · cases h; exact .inr (.inl ⟨hr, ‹_›, rfl⟩)
    · exact .inr (.inr ⟨hr, _, ‹_›, h⟩)

/-- The cases of the execute step: the decoded command's rule, or IllegalCommand. -/
theorem executeWord_cases (s : State) (cw : Word) :
    (∃ i, decode cw = .command i ∧ executeWord s cw = exec i s) ∨
      (∃ why, decode cw = .illegal why ∧ executeWord s cw = execIllegal s) := by
  unfold executeWord
  split
  · exact .inl ⟨_, ‹_›, rfl⟩
  · exact .inr ⟨_, ‹_›, rfl⟩

/-- The cases of a step that answers a next state: the parameters are admitted, and one agent has moved. -/
theorem step_next (h : step s = .next t) :
    s.cfg.ok = true ∧
      ((s.events = [] ∧ engineTurn s = .next t) ∨
        (∃ rest, s.events = .engine :: rest ∧ engineTurn { s with events := rest } = .next t) ∨
        (∃ a rest, s.events = .host a :: rest ∧ hostAccess { s with events := rest } a = .next t) ∨
        (∃ rest, s.events = .assertReset :: rest ∧ t = resetAsserted { s with events := rest }) ∨
        (∃ rest, s.events = .releaseReset :: rest ∧ t = resetReleased { s with events := rest })) := by
  unfold step at h
  split at h
  · refine ⟨‹_›, ?_⟩
    split at h
    · exact .inl ⟨‹_›, h⟩
    · rename_i e rest he
      cases e with
      | engine => exact .inr (.inl ⟨rest, he, h⟩)
      | host a => exact .inr (.inr (.inl ⟨a, rest, he, h⟩))
      | assertReset => cases h; exact .inr (.inr (.inr (.inl ⟨rest, he, rfl⟩)))
      | releaseReset => cases h; exact .inr (.inr (.inr (.inr ⟨rest, he, rfl⟩)))
  · cases h

end Sys2Proof.Laws
end

