-- ==== Sys2Proof/Laws/Words.lean ====
section
/-! SUPPORT. Command words and packed types as numbers: a word's fields (spec/30_encoding.md R60) and Pack4, Unpack4, be32
(spec/00_scope.md R7, spec/10_state.md R26). -/

namespace Sys2Proof.Laws

open Sys2Proof.Machine

/-- A word's value from its fields: OPC, then IMM at 2^8, then RSV at 2^16. -/
theorem wordOfFields_toNat (f : CommandFields) :
    (wordOfFields f).toNat = f.rsv.toNat * 2 ^ 16 + f.imm.toNat * 2 ^ 8 + f.opc.toNat := by
  have h₁ := f.opc.isLt
  have h₂ := f.imm.isLt
  simp only [wordOfFields, BitVec.toNat_append]
  rw [← Nat.shiftLeft_add_eq_or_of_lt (by omega), ← Nat.shiftLeft_add_eq_or_of_lt (by omega)]
  simp only [Nat.shiftLeft_eq]
  omega

/-- A word's fields as numbers. -/
theorem fieldsOfWord_toNat (cw : Word) :
    (fieldsOfWord cw).opc.toNat = cw.toNat % 256 ∧ (fieldsOfWord cw).imm.toNat = cw.toNat / 256 % 256 ∧
      (fieldsOfWord cw).rsv.toNat = cw.toNat / 65536 := by
  have := cw.isLt
  simp [fieldsOfWord, Nat.shiftRight_eq_div_pow]
  omega

/-- Splitting a word and joining its fields gives the word back. -/
theorem wordOfFields_fieldsOfWord (cw : Word) : wordOfFields (fieldsOfWord cw) = cw := by
  apply BitVec.eq_of_toNat_eq
  obtain ⟨h₁, h₂, h₃⟩ := fieldsOfWord_toNat cw
  rw [wordOfFields_toNat, h₁, h₂, h₃]
  omega

/-- Joining fields and splitting the word gives the fields back. -/
theorem fieldsOfWord_wordOfFields (f : CommandFields) : fieldsOfWord (wordOfFields f) = f := by
  obtain ⟨opc, imm, rsv⟩ := f
  obtain ⟨h₁, h₂, h₃⟩ := fieldsOfWord_toNat (wordOfFields ⟨opc, imm, rsv⟩)
  simp only [wordOfFields_toNat] at h₁ h₂ h₃
  have := opc.isLt
  have := imm.isLt
  generalize fieldsOfWord (wordOfFields ⟨opc, imm, rsv⟩) = g at *
  obtain ⟨o, i, r⟩ := g
  simp only [CommandFields.mk.injEq]
  refine ⟨?_, ?_, ?_⟩ <;> apply BitVec.eq_of_toNat_eq <;> dsimp only at * <;> omega

/-- Byte 0 of a packed type is the most significant byte. -/
theorem pack4_toNat (t : TypeBytes) :
    (pack4 t).toNat = t.b0.toNat * 2 ^ 24 + t.b1.toNat * 2 ^ 16 + t.b2.toNat * 2 ^ 8 + t.b3.toNat := by
  obtain ⟨b0, b1, b2, b3⟩ := t
  have := b0.isLt
  have := b1.isLt
  have := b2.isLt
  have := b3.isLt
  simp only [pack4, BitVec.toNat_append]
  rw [← Nat.shiftLeft_add_eq_or_of_lt (by omega), ← Nat.shiftLeft_add_eq_or_of_lt (by omega),
    ← Nat.shiftLeft_add_eq_or_of_lt (by omega)]
  simp only [Nat.shiftLeft_eq]
  omega

/-- Unpacking the word of a type's value gives the type. -/
theorem unpack4_of_toNat {w : Word} {t : TypeBytes}
    (h : w.toNat = t.b0.toNat * 2 ^ 24 + t.b1.toNat * 2 ^ 16 + t.b2.toNat * 2 ^ 8 + t.b3.toNat) : unpack4 w = t := by
  obtain ⟨b0, b1, b2, b3⟩ := t
  have := b0.isLt
  have := b1.isLt
  have := b2.isLt
  have := b3.isLt
  dsimp only at h
  simp only [unpack4, TypeBytes.mk.injEq]
  refine ⟨?_, ?_, ?_, ?_⟩ <;> apply BitVec.eq_of_toNat_eq <;> simp [Nat.shiftRight_eq_div_pow, h] <;> omega

/-- Unpacking a packed type gives it back. -/
theorem unpack4_pack4 (t : TypeBytes) : unpack4 (pack4 t) = t := unpack4_of_toNat (pack4_toNat t)

end Sys2Proof.Laws
end

