-- ==== Sys2Proof/Tests/Slice0.lean ====
section
/-! SUPPORT. The model's own tests, and the witnesses of the statements' hypotheses. Every expected value is the spec's:
the word of a command is written out from spec/30_encoding.md R60 and R67, a result is the named vector of
spec/95_test_vectors.md (parameters 256, 256, 64, 4, 128, those of `State.reset`). -/

namespace Sys2Proof.Tests

open Sys2Proof.Machine Sys2Proof.Claims

/-! ## Helpers -/

/-- Cells from an address on. -/
def cells (a : Nat) (bytes : List Byte) : Memory :=
  match bytes with
  | [] => []
  | b :: rest => (a, b) :: cells (a + 1) rest

/-- The reset state with `bytes` in IBUF from address 0 and the argument registers set. -/
def withInput (bytes : List Byte) (addr len : Word) : State :=
  { State.reset with ibuf := cells 0 bytes, argAddr := addr, argLen := len }

/-- The reset state with a command pending on the given operands. -/
def pendingOn (bytes : List Byte) (addr len key idx : Word) : State :=
  { State.reset with ibuf := cells 0 bytes, pend := some ⟨0, addr, len, key, idx⟩, busy := true }

/-- One step that runs the word as the next command. -/
def runWord (w : Nat) (s : State) : Result := step (s.withFetchWord 32 w)

/-- What a view of the next state shows, none on a fault or a refusal. -/
def seen {α : Type} (view : State → α) (r : Result) : Option α :=
  match r with
  | .next t => some (view t)
  | .fault _ => none
  | .refused _ => none

/-- The fault a step ends in, if it does. -/
def faultOf (r : Result) : Option Fault :=
  match r with
  | .next _ => none
  | .fault e => some e
  | .refused _ => none

/-- The refusal a step ends in, if it does. -/
def refusalOf (r : Result) : Option Refusal :=
  match r with
  | .next _ => none
  | .fault _ => none
  | .refused e => some e

/-- The bytes of OBUF below OUT_LEN. -/
def outBytes (s : State) : Option (List Byte) := Memory.readRange s.obuf 0 s.outLen.toNat

def ruSt : TypeBytes := ⟨0x52, 0x75, 0x53, 0x74⟩
def rust : TypeBytes := ⟨0x52, 0x75, 0x73, 0x74⟩
def tEXt : TypeBytes := ⟨0x74, 0x45, 0x58, 0x74⟩
def iend : TypeBytes := ⟨0x49, 0x45, 0x4E, 0x44⟩
def digits : List Byte := [0x31, 0x32, 0x33, 0x34, 0x35, 0x36, 0x37, 0x38, 0x39]

/-- The chunks A, B, C and D of 95_test_vectors V-PNG. -/
def chunkA : Chunk := ⟨iend, []⟩
def chunkB : Chunk := ⟨ruSt, [0x6F, 0x6E, 0x65]⟩
def chunkC : Chunk := ⟨ruSt, [0x74, 0x77, 0x6F]⟩
def chunkD : Chunk := ⟨tEXt, [0x68, 0x69]⟩

def signature : List Byte := [0x89, 0x50, 0x4E, 0x47, 0x0D, 0x0A, 0x1A, 0x0A]
def iendRecord : List Byte := [0x00, 0x00, 0x00, 0x00, 0x49, 0x45, 0x4E, 0x44, 0xAE, 0x42, 0x60, 0x82]

/-- MSG of 95_test_vectors W5. -/
def message : List Byte :=
  [0x54, 0x68, 0x69, 0x73, 0x20, 0x69, 0x73, 0x20, 0x77, 0x68, 0x65, 0x72, 0x65, 0x20] ++
  [0x79, 0x6F, 0x75, 0x72, 0x20, 0x73, 0x65, 0x63, 0x72, 0x65, 0x74, 0x20, 0x6D, 0x65] ++
  [0x73, 0x73, 0x61, 0x67, 0x65, 0x20, 0x77, 0x69, 0x6C, 0x6C, 0x20, 0x62, 0x65, 0x21]

/-! ## Well-formedness -/

theorem test_reserved_bits_refused : (CommandFields.mk 0x02 0x31 1).wellFormed = false := by decide

theorem test_unassigned_opcode_refused : (CommandFields.mk 0x07 0 0).wellFormed = false := by decide

theorem test_immediate_in_class_n_refused : (CommandFields.mk 0x01 1 0).wellFormed = false := by decide

theorem test_immediate_in_class_i_admitted : (CommandFields.mk 0x02 0xFF 0).wellFormed = true := by decide

/-- R5, one ill-formed choice for each constraint. -/
theorem test_parameters_refused :
    Params.ok { Config.vectorParams with ibufSize := 11 } = false ∧
    Params.ok { Config.vectorParams with ibufSize := 2 ^ 32 + 1 } = false ∧
    Params.ok { Config.vectorParams with obufSize := 11 } = false ∧
    Params.ok { Config.vectorParams with obufSize := 2 ^ 32 } = false ∧
    Params.ok { Config.vectorParams with maxData := 2 ^ 32 } = false ∧
    Params.ok { Config.vectorParams with maxChunks := 2 ^ 32 } = false := by decide

theorem test_parameters_admitted :
    Config.vectorParams.ok = true ∧
    Params.ok ⟨12, 12, 0, 0, 0, 0, 0, 0⟩ = true ∧
    Params.ok ⟨2 ^ 32, 2 ^ 32 - 1, 2 ^ 32 - 1, 2 ^ 32 - 1, 0, 0, 0, 0⟩ = true := by decide

theorem test_bad_configuration_refused :
    refusalOf (step { State.reset with cfg := { Config.vectorParams with ibufSize := 11 } }) =
      some .badConfiguration := by decide

/-! ## Decoding: each word is `0x000000<OPC>`, or `0x0000<IMM><OPC>` in class I (R60, R67) -/

theorem test_decode_control : decode 0x00000000 = .command .nop ∧ decode 0x0000003F = .command .errClear := by decide

theorem test_decode_crc :
    decode 0x00000001 = .command .crcInit ∧ decode 0x00003102 = .command (.crcByte 0x31) ∧
    decode 0x0000FF02 = .command (.crcByte 0xFF) ∧ decode 0x00000003 = .command .crcBuf ∧
    decode 0x00000004 = .command .crcFinal ∧ decode 0x00000005 = .command .crcChecksum ∧
    decode 0x00000006 = .command (.crcTable 0x00) ∧ decode 0x00000106 = .command (.crcTable 0x01) ∧
    decode 0x00008006 = .command (.crcTable 0x80) := by decide

theorem test_decode_type :
    decode 0x00000010 = .command .typeLoad ∧ decode 0x00000011 = .command .typeLoadText ∧
    decode 0x00000012 = .command .typeIsCritical ∧ decode 0x00000013 = .command .typeIsPublic ∧
    decode 0x00000014 = .command .typeIsReservedValid ∧ decode 0x00000015 = .command .typeIsSafeToCopy ∧
    decode 0x00000016 = .command .typeIsValid ∧ decode 0x00000017 = .command .typeBytes ∧
    decode 0x00000018 = .command .typeText := by decide

theorem test_decode_chunk :
    decode 0x00000020 = .command .chunkBuild ∧ decode 0x00000021 = .command .chunkParse ∧
    decode 0x00000022 = .command .chunkLength ∧ decode 0x00000023 = .command .chunkCrc ∧
    decode 0x00000024 = .command .chunkType ∧ decode 0x00000025 = .command .chunkTypeText ∧
    decode 0x00000026 = .command .chunkDataText ∧ decode 0x00000027 = .command .chunkSerialize := by decide

theorem test_decode_container :
    decode 0x00000030 = .command .pngParse ∧ decode 0x00000031 = .command .pngAppend ∧
    decode 0x00000032 = .command .pngFind ∧ decode 0x00000033 = .command .pngRemove ∧
    decode 0x00000034 = .command .pngCount ∧ decode 0x00000035 = .command .pngGet ∧
    decode 0x00000036 = .command .pngSerialize := by decide

/-- The illegal words of V-CTL. -/
theorem test_decode_illegal :
    decode 0x00010002 = .illegal .reservedBitsSet ∧ decode 0x00000101 = .illegal .immediateNotZero ∧
    decode 0x00000007 = .illegal .unassignedOpcode ∧ decode 0x0000000F = .illegal .unassignedOpcode ∧
    decode 0x00000019 = .illegal .unassignedOpcode ∧ decode 0x00000037 = .illegal .unassignedOpcode ∧
    decode 0x0000013F = .illegal .immediateNotZero ∧ decode 0x80000030 = .illegal .reservedBitsSet ∧
    decode 0x000000FF = .illegal .unassignedOpcode ∧ decode 0xFFFFFFFF = .illegal .reservedBitsSet := by decide

/-! ## Control (V-CTL) -/

theorem test_illegal_word :
    seen (fun t => (t.statusWord, t.result)) (runWord 0x00000007 { State.reset with result := 5 }) =
      some (0x00000D22, 5) := by decide

theorem test_nop_keeps_sticky :
    seen State.statusWord (runWord 0x00000000 { State.reset with sticky := true, err := .illegalCommand }) =
      some 0x00000022 := by decide

theorem test_err_clear :
    seen (fun t => (t.statusWord, t.errOffset)) (runWord 0x0000003F { State.reset with
      sticky := true, err := .chunkParseFailure, suberr := .malformed, errOffset := 8 }) =
      some (0x00000002, 0) := by decide

/-! ## CRC (V-CRC-C, V-CRC-T) -/

theorem test_crc_init :
    seen State.crc (runWord 0x00000001 { State.reset with crc := 0x12345678 }) = some 0xFFFFFFFF := by decide

theorem test_crc_byte :
    seen (fun t => (t.crc, t.result)) (runWord 0x00003102 State.reset) = some (0x7C231048, 0) := by decide

theorem test_crc_byte_equal_low_byte :
    seen State.crc (runWord 0x00007802 { State.reset with crc := 0x12345678 }) = some 0x00123456 := by decide

theorem test_crc_buf :
    seen State.crc (runWord 0x00000003 (withInput digits 0 9)) = some 0x340BC6D9 := by decide +kernel

theorem test_crc_buf_range :
    seen (fun t => (t.statusWord, t.crc)) (runWord 0x00000003 (withInput digits 250 7)) =
      some (0x00000922, 0xFFFFFFFF) := by decide

theorem test_crc_final :
    seen (fun t => (t.result, t.crc)) (runWord 0x00000004 { State.reset with crc := 0x340BC6D9 }) =
      some (0xCBF43926, 0x340BC6D9) := by decide

theorem test_crc_checksum :
    seen (fun t => (t.result, t.crc)) (runWord 0x00000005 { withInput digits 0 9 with crc := 0x0BADF00D }) =
      some (0xCBF43926, 0x0BADF00D) := by decide +kernel

theorem test_crc_checksum_unwritten :
    faultOf (runWord 0x00000005 (withInput digits 0 10)) = some .uninitInput := by decide

theorem test_crc_table :
    seen State.result (runWord 0x00008006 State.reset) = some 0xEDB88320 ∧
    seen State.result (runWord 0x0000FF06 State.reset) = some 0x2D02EF8D := by decide

/-! ## Chunk types (V-TYPE, W3, W4) -/

theorem test_type_load :
    seen (fun t => (t.statusWord, t.ctype)) (runWord 0x00000010 { State.reset with argType := 0x52755374 }) =
      some (0x0000000A, some ruSt) := by decide

theorem test_type_load_refuses_high_bit :
    seen State.statusWord (runWord 0x00000010 { State.reset with argType := 0xC1414141 }) =
      some 0x00000122 := by decide

theorem test_type_load_text :
    seen (fun t => (t.statusWord, t.ctype))
      (runWord 0x00000011 (withInput [0x52, 0x75, 0x53, 0x74, 0x49, 0x45, 0x4E, 0x44] 4 4)) =
      some (0x0000000A, some iend) := by decide

/-- V-TYPE-6: the length is checked before a cell is read. -/
theorem test_type_load_text_length_first :
    seen State.statusWord (runWord 0x00000011 (withInput [] 253 3)) = some 0x00000122 := by decide

theorem test_type_is_critical :
    seen State.result (runWord 0x00000012 { State.reset with ctype := some ruSt }) = some 1 ∧
    seen State.result (runWord 0x00000012 { State.reset with ctype := some tEXt }) = some 0 := by decide

theorem test_type_is_public :
    seen State.result (runWord 0x00000013 { State.reset with ctype := some ruSt }) = some 0 ∧
    seen State.result (runWord 0x00000013 { State.reset with ctype := some tEXt }) = some 1 := by decide

theorem test_type_is_reserved_valid :
    seen State.result (runWord 0x00000014 { State.reset with ctype := some ruSt }) = some 1 ∧
    seen State.result (runWord 0x00000014 { State.reset with ctype := some rust }) = some 0 := by decide

theorem test_type_is_safe_to_copy :
    seen State.result (runWord 0x00000015 { State.reset with ctype := some ruSt }) = some 1 ∧
    seen State.result (runWord 0x00000015 { State.reset with ctype := some iend }) = some 0 := by decide

theorem test_type_is_valid :
    seen State.result (runWord 0x00000016 { State.reset with ctype := some ruSt }) = some 1 ∧
    seen State.result (runWord 0x00000016 { State.reset with ctype := some rust }) = some 0 := by decide

theorem test_type_query_without_type :
    seen State.statusWord (runWord 0x00000012 State.reset) = some 0x00000722 := by decide

theorem test_type_bytes :
    seen State.result (runWord 0x00000017 { State.reset with ctype := some tEXt }) = some 0x74455874 := by decide

theorem test_type_text :
    seen (fun t => (t.outLen, outBytes t)) (runWord 0x00000018 { State.reset with ctype := some tEXt }) =
      some (4, some [0x74, 0x45, 0x58, 0x74]) := by decide

/-! ## Chunks (W5, W8, V-CHK) -/

theorem test_chunk_build :
    seen (fun t => (t.statusWord, t.w)) (runWord 0x00000020 { withInput message 0 42 with ctype := some ruSt }) =
      some (0x0000001A, some ⟨ruSt, message⟩) := by decide

theorem test_chunk_build_oversized :
    seen (fun t => (t.err, t.w)) (runWord 0x00000020 { withInput message 0 65 with ctype := some ruSt }) =
      some (.oversizedPayload, none) := by decide

/-- V-CHK-P3: the length field decides nothing and comes back in RESULT. -/
theorem test_chunk_parse_length_field :
    seen (fun t => (t.w, t.result)) (runWord 0x00000021
      (withInput [0xFF, 0xFF, 0xFF, 0xFF, 0x49, 0x45, 0x4E, 0x44, 0xAE, 0x42, 0x60, 0x82] 0 12)) =
      some (some chunkA, 0xFFFFFFFF) := by decide +kernel

/-- V-CHK-P8. -/
theorem test_chunk_parse_crc_mismatch :
    seen (fun t => (t.err, t.w)) (runWord 0x00000021
      (withInput [0x00, 0x00, 0x00, 0x00, 0x49, 0x45, 0x4E, 0x64, 0xAE, 0x42, 0x60, 0x82] 0 12)) =
      some (.crcMismatch, none) := by decide +kernel

theorem test_chunk_length :
    seen State.result (runWord 0x00000022 { State.reset with w := some ⟨ruSt, message⟩ }) = some 0x0000002A := by
  decide

theorem test_chunk_crc :
    seen State.result (runWord 0x00000023 { State.reset with w := some ⟨ruSt, message⟩ }) = some 0xABD1D84E := by
  decide +kernel

theorem test_chunk_type :
    seen (fun t => (t.result, t.ctype)) (runWord 0x00000024 { State.reset with w := some chunkB }) =
      some (0x52755374, some ruSt) := by decide

theorem test_chunk_type_text :
    seen (fun t => (t.result, outBytes t)) (runWord 0x00000025 { State.reset with w := some chunkB }) =
      some (1, some [0x52, 0x75, 0x53, 0x74]) := by decide

theorem test_chunk_data_text :
    seen (fun t => (t.result, t.outLen, outBytes t)) (runWord 0x00000026 { State.reset with w := some chunkB }) =
      some (1, 3, some [0x6F, 0x6E, 0x65]) := by decide

/-- W8's chunk ("Rust", [FF 00]): 0xFF never occurs in UTF-8. -/
theorem test_chunk_data_text_not_utf8 :
    seen (fun t => (t.err, t.result, t.outLen, t.obuf)) (runWord 0x00000026 { State.reset with
      w := some ⟨rust, [0xFF, 0x00]⟩, result := 7, outLen := 4, obuf := cells 0 [1, 2, 3, 4] }) =
      some (.success, 0, 0, cells 0 [1, 2, 3, 4]) := by decide

theorem test_chunk_serialize :
    seen (fun t => (t.outLen, outBytes t)) (runWord 0x00000027 { State.reset with w := some ⟨tEXt, [0x61]⟩ }) =
      some (13, some [0x00, 0x00, 0x00, 0x01, 0x74, 0x45, 0x58, 0x74, 0x61, 0x75, 0xF3, 0x8B, 0x29]) := by
  decide +kernel

theorem test_chunk_serialize_without_chunk :
    seen State.statusWord (runWord 0x00000027 State.reset) = some 0x00000822 := by decide

/-! ## The container (V-PNG) -/

/-- V-PNG-2. -/
theorem test_png_parse :
    seen (fun t => (t.store, t.result)) (runWord 0x00000030
      { withInput (signature ++ iendRecord) 0 20 with store := [chunkD] }) = some ([chunkA], 1) := by decide +kernel

/-- V-PNG-5. -/
theorem test_png_parse_trailing_byte :
    seen (fun t => (t.statusWord, t.errOffset, t.store)) (runWord 0x00000030
      { withInput (signature ++ iendRecord ++ [0x00]) 0 21 with store := [chunkD] }) =
      some (0x00040522, 20, [chunkD]) := by decide +kernel

theorem test_png_append :
    seen (fun t => (t.store, t.w, t.result, t.statusWord))
      (runWord 0x00000031 { State.reset with store := [chunkA], w := some chunkB }) =
      some ([chunkA, chunkB], none, 2, 0x00000002) := by decide

/-- V-PNG-S4. -/
theorem test_png_append_full :
    seen (fun t => (t.err, t.store, t.w, t.errOffset))
      (runWord 0x00000031 { State.reset with store := [chunkA, chunkA, chunkA, chunkA], w := some chunkB }) =
      some (.storeFull, [chunkA, chunkA, chunkA, chunkA], some chunkB, 0) := by decide

theorem test_png_find :
    seen (fun t => (t.w, t.result, t.statusWord)) (runWord 0x00000032
      { State.reset with store := [chunkA, chunkB, chunkD, chunkC], argType := 0x52755374 }) =
      some (some chunkB, 1, 0x00000016) := by decide

theorem test_png_find_case_sensitive :
    seen (fun t => (t.w, t.result, t.found, t.err)) (runWord 0x00000032
      { State.reset with store := [chunkA, chunkB, chunkD, chunkC], w := some chunkD, argType := 0x52757374 }) =
      some (some chunkD, 0xFFFFFFFF, false, .success) := by decide

theorem test_png_remove :
    seen (fun t => (t.store, t.w, t.found, t.result)) (runWord 0x00000033
      { State.reset with store := [chunkA, chunkB, chunkD, chunkC], argType := 0x52755374 }) =
      some ([chunkA, chunkD, chunkC], some chunkB, true, 1) := by decide

theorem test_png_remove_absent :
    seen (fun t => (t.store, t.w, t.found, t.result, t.err)) (runWord 0x00000033
      { State.reset with store := [chunkA, chunkD], w := some chunkC, argType := 0x52755374 }) =
      some ([chunkA, chunkD], some chunkC, false, 0xFFFFFFFF, .success) := by decide

theorem test_png_count :
    seen State.result (runWord 0x00000034 { State.reset with store := [chunkA, chunkB, chunkD] }) = some 3 := by
  decide

theorem test_png_get :
    seen (fun t => (t.w, t.result)) (runWord 0x00000035
      { State.reset with store := [chunkA, chunkB, chunkD], argIndex := 2, result := 9 }) =
      some (some chunkD, 9) := by decide

theorem test_png_get_range :
    seen (fun t => (t.w, t.err)) (runWord 0x00000035
      { State.reset with store := [chunkA, chunkB, chunkD], argIndex := 3, w := some chunkA }) =
      some (some chunkA, .indexRange) := by decide

/-- V-PNG-S18. -/
theorem test_png_serialize :
    seen (fun t => (t.outLen, outBytes t)) (runWord 0x00000036 { State.reset with store := [chunkD, chunkA] }) =
      some (34, some (signature ++
        [0x00, 0x00, 0x00, 0x02, 0x74, 0x45, 0x58, 0x74, 0x68, 0x69, 0x75, 0x69, 0xE6, 0xDF] ++ iendRecord)) := by
  decide +kernel

/-- V-PNG-S19. -/
theorem test_png_serialize_overflow :
    seen (fun t => (t.err, t.outLen)) (runWord 0x00000036 { State.reset with
      store := [chunkD, chunkA], outLen := 5, cfg := { Config.vectorParams with obufSize := 33 } }) =
      some (.outputOverflow, 5) := by decide

/-! ## The protocol (V-PROTO) -/

/-- V-PROTO-2 and V-PROTO-3. -/
theorem test_reads_after_reset :
    seen State.reads (Host.Core.run Sys2Proof.core 4 { State.reset with
      events := [evRd .cmd, evRd .id, evRd .reserved, evRd .crc] }) =
      some [.word 0xFFFFFFFF, .word 0x00000000, .word 0x504E4701, .word 0x00000000] := by decide

/-- V-PROTO-4. -/
theorem test_ibuf_write_while_busy :
    faultOf (step { State.reset with busy := true, pend := some ⟨0, 0, 0, 0, 0⟩, events := [evWb 0 1] }) =
      some .hostHazard := by decide

/-- V-PROTO-5. -/
theorem test_bus_errors :
    faultOf (step { State.reset with events := [.host (.read .reg 0x04 8)] }) = some .hostBusError ∧
    faultOf (step { State.reset with events := [.host (.read .reg 0x100 32)] }) = some .hostBusError := by decide

/-- R42. -/
theorem test_unwritten_cell_read :
    faultOf (step { State.reset with events := [evRb .ibuf 255] }) = some .uninitRead := by decide

/-- V-PROTO-7. -/
theorem test_reset_discards_pending :
    seen (fun t => (t.pend, t.statusWord, t.result, t.crc))
      (step { State.reset with
        busy := true, pend := some ⟨1, 0, 0, 0, 0⟩, result := 3, crc := 4, events := [.assertReset] }) =
      some (none, 0, 0, 0xFFFFFFFF) := by decide

/-- R69: the statement `DO CRC_BYTE #0x31` with no busy poll. -/
theorem test_host_program :
    programEvents [.doCmd (.crcByte 0x31) 0] =
      [.host (.write .reg 0x00 32 0x00003102), .engine, .host (.read .reg 0x04 32)] := by decide

/-! ## Witnesses

For each statement with hypotheses, states and operands that meet all of them, one for each clause, at the boundary values
of its range. A statement that is not named here has none. -/

theorem vectorParams_ok : Config.vectorParams.ok = true := by decide

/-- An idle state whose next event is `e`. -/
def idleBefore (e : Event) : State := { State.reset with events := [e] }

/-- A state with BUSY = 1 whose next event is `e`. -/
def busyBefore (e : Event) : State :=
  { State.reset with busy := true, pend := some ⟨0, 0, 0, 0, 0⟩, events := [e] }

theorem witness_DecodeAndEncodeAgree : ∃ (cw : Word) (i : Instr), decode cw = .command i :=
  ⟨0x00003102, .crcByte 0x31, by decide⟩

theorem witness_DecodeIsMaskAndMatch :
    ∃ (cw : Word) (i j : Instr), i ≠ j ∧ cw &&& maskWord i = matchWord i ∧ cw &&& maskWord j = matchWord j :=
  ⟨0x0000FF02, .crcByte 0, .crcByte 1, by decide⟩

theorem witness_EngineTurnRunsTheDecodedCommand :
    (∃ (s : State) (p : Pending) (i : Instr), s.cfg.ok = true ∧ s.resetIn = false ∧ s.pend = some p ∧
      decode p.cw = .command i ∧ s.events = []) ∧
    ∃ (s : State) (p : Pending) (i : Instr), s.cfg.ok = true ∧ s.resetIn = false ∧ s.pend = some p ∧
      decode p.cw = .command i ∧ s.events = .engine :: [] :=
  ⟨⟨pendingOn [] 0 0 0 0, ⟨0, 0, 0, 0, 0⟩, .nop, by decide⟩,
    ⟨{ pendingOn [] 0 0 0 0 with events := [.engine] }, ⟨0, 0, 0, 0, 0⟩, .nop, by decide⟩⟩

theorem witness_IllegalWordRaisesIllegalCommand :
    (∃ (s : State) (v : Word) (why : IllegalWord), s.cfg.ok = true ∧ s.resetIn = false ∧ s.busy = false ∧
      decode v = .illegal why ∧ s.events = cmdWrite v :: []) ∧
    ∀ cw ∈ [(0x00000007 : Word), 0x00010002, 0x00000101],
      ∃ (s : State) (p : Pending) (why : IllegalWord), s.cfg.ok = true ∧ s.resetIn = false ∧ s.pend = some p ∧
        p.cw = cw ∧ decode p.cw = .illegal why ∧ s.events = .engine :: [] := by
  refine ⟨⟨idleBefore (cmdWrite 7), 7, .unassignedOpcode, by decide⟩, fun cw h => ?_⟩
  refine ⟨{ State.reset with pend := some ⟨cw, 0, 0, 0, 0⟩, events := [.engine] }, ⟨cw, 0, 0, 0, 0⟩, ?_⟩
  simp only [List.mem_cons, List.not_mem_nil, or_false] at h
  rcases h with rfl | rfl | rfl
  · exact ⟨.unassignedOpcode, by decide⟩
  · exact ⟨.reservedBitsSet, by decide⟩
  · exact ⟨.immediateNotZero, by decide⟩

theorem witness_AcceptLatchesTheOperands :
    ∃ (s : State) (v : Word), s.cfg.ok = true ∧ s.resetIn = false ∧ s.busy = false ∧ s.events = cmdWrite v :: [] :=
  ⟨idleBefore (cmdWrite 0xFFFFFFFF), 0xFFFFFFFF, by decide⟩

theorem witness_CommandWriteWhileBusyIsDropped :
    ∃ (s : State) (v : Word), s.cfg.ok = true ∧ s.resetIn = false ∧ s.busy = true ∧ s.events = cmdWrite v :: [] :=
  ⟨busyBefore (cmdWrite 1), 1, by decide⟩

theorem witness_ArgumentWritesDoNotReachTheCommand :
    ∀ off ∈ [0x08, 0x0C, 0x10, 0x14],
      ∃ (s : State) (v : Word), s.cfg.ok = true ∧ s.resetIn = false ∧ s.busy = true ∧
        s.events = .host (.write .reg off 32 v) :: [] :=
  fun off _ => ⟨busyBefore (.host (.write .reg off 32 9)), 9, vectorParams_ok, rfl, rfl, rfl⟩

theorem witness_IbufWriteWhileBusyIsAHazard :
    ∀ a ∈ [0, 255], ∃ (s : State) (v : Word), s.cfg.ok = true ∧ s.resetIn = false ∧ s.busy = true ∧
      a < s.cfg.ibufSize ∧
      s.events = .host (.write .ibuf a 8 v) :: [] := fun a h =>
  ⟨busyBefore (.host (.write .ibuf a 8 9)), 9, vectorParams_ok, rfl, rfl, by revert a; decide, rfl⟩

theorem witness_ReadsWhileBusyAreDraws :
    (∀ off ∈ [0x04, 0x18, 0x1C, 0x20, 0x24, 0x08, 0x0C, 0x10, 0x14, 0x28],
      ∃ s : State, s.cfg.ok = true ∧ s.resetIn = false ∧ s.busy = true ∧ s.done = false ∧
        s.events = .host (.read .reg off 32) :: []) ∧
    (∀ a ∈ [0, 255], ∃ s : State, s.cfg.ok = true ∧ s.resetIn = false ∧ s.busy = true ∧ s.done = false ∧
      a < s.cfg.obufSize ∧ s.events = .host (.read .obuf a 8) :: []) ∧
    ∃ (s : State) (b : Byte), s.cfg.ok = true ∧ s.resetIn = false ∧ s.busy = true ∧ s.done = false ∧
      255 < s.cfg.ibufSize ∧ Memory.read s.ibuf 255 = some b ∧ s.events = .host (.read .ibuf 255 8) :: [] :=
  ⟨fun off _ => ⟨busyBefore (.host (.read .reg off 32)), vectorParams_ok, rfl, rfl, rfl, rfl⟩,
    fun a h => ⟨busyBefore (.host (.read .obuf a 8)), vectorParams_ok, rfl, rfl, rfl, by revert a; decide, rfl⟩,
    ⟨{ busyBefore (.host (.read .ibuf 255 8)) with ibuf := [(255, 7)] }, 7, by decide⟩⟩

theorem witness_RegisterMapWhenIdle :
    ∀ off ∈ [0x00, 0x04, 0x08, 0x0C, 0x10, 0x14, 0x18, 0x1C, 0x20, 0x24, 0x28, 0x2C, 0xFC],
      ∃ (s : State) (v : Word), s.cfg.ok = true ∧ s.resetIn = false ∧ s.busy = false ∧
        ((off, v) ∈ [(0x00, 0), (0x04, s.statusWord), (0x08, s.argAddr), (0x0C, s.argLen), (0x10, s.argType),
          (0x14, s.argIndex), (0x18, s.result), (0x1C, s.crc), (0x20, s.outLen), (0x24, s.errOffset),
          (0x28, 0x504E4701)] ∨ (0x2C ≤ off ∧ off ≤ 0xFC ∧ off % 4 = 0 ∧ v = 0)) ∧
        s.events = .host (.read .reg off 32) :: [] := by
  intro off h
  refine ⟨idleBefore (.host (.read .reg off 32)),
    if off = 0x1C then 0xFFFFFFFF else if off = 0x28 then 0x504E4701 else 0, vectorParams_ok, rfl, rfl, ?_, rfl⟩
  revert off; decide

theorem witness_ReadOnlyAndReservedWritesAreIgnored :
    ∀ off ∈ [0x04, 0x18, 0x1C, 0x20, 0x24, 0x28, 0x2C, 0xFC],
      ∃ (s : State) (v : Word), s.cfg.ok = true ∧ s.resetIn = false ∧
        (off ∈ [0x04, 0x18, 0x1C, 0x20, 0x24, 0x28] ∨ (0x2C ≤ off ∧ off ≤ 0xFC ∧ off % 4 = 0)) ∧
        s.events = .host (.write .reg off 32 v) :: [] := fun off h =>
  ⟨idleBefore (.host (.write .reg off 32 9)), 9, vectorParams_ok, rfl, by revert off; decide, rfl⟩

theorem witness_BusErrors :
    (∀ x ∈ [(0x04, 8), (0x02, 32), (0x100, 32)],
      (x.2 ≠ 32 ∨ x.1 % 4 ≠ 0 ∨ 0x100 ≤ x.1) ∧
      (∃ s : State, s.cfg.ok = true ∧ s.events = .host (.read .reg x.1 x.2) :: []) ∧
      ∃ (s : State) (v : Word), s.cfg.ok = true ∧ s.events = .host (.write .reg x.1 x.2 v) :: []) ∧
    (∀ x ∈ [(0, 32), (256, 8)], ∃ (s : State) (v : Word), s.cfg.ok = true ∧
      (x.2 ≠ 8 ∨ s.cfg.ibufSize ≤ x.1) ∧ s.events = .host (.write .ibuf x.1 x.2 v) :: []) ∧
    (∀ x ∈ [(0, 32), (256, 8)], ∃ s : State, s.cfg.ok = true ∧
      (x.2 ≠ 8 ∨ s.cfg.ibufSize ≤ x.1) ∧ s.events = .host (.read .ibuf x.1 x.2) :: []) ∧
    (∀ x ∈ [(0, 32), (256, 8)], ∃ s : State, s.cfg.ok = true ∧
      (x.2 ≠ 8 ∨ s.cfg.obufSize ≤ x.1) ∧ s.events = .host (.read .obuf x.1 x.2) :: []) ∧
    ∃ s : State, s.cfg.ok = true ∧ s.events = .host (.write .obuf 0 8 1) :: [] :=
  ⟨fun x h => ⟨by revert x; decide, ⟨idleBefore (.host (.read .reg x.1 x.2)), vectorParams_ok, rfl⟩,
      ⟨idleBefore (.host (.write .reg x.1 x.2 9)), 9, vectorParams_ok, rfl⟩⟩,
    fun x h => ⟨idleBefore (.host (.write .ibuf x.1 x.2 9)), 9, vectorParams_ok, by revert x; decide, rfl⟩,
    fun x h => ⟨idleBefore (.host (.read .ibuf x.1 x.2)), vectorParams_ok, by revert x; decide, rfl⟩,
    fun x h => ⟨idleBefore (.host (.read .obuf x.1 x.2)), vectorParams_ok, by revert x; decide, rfl⟩,
    ⟨idleBefore (.host (.write .obuf 0 8 1)), by decide⟩⟩

theorem witness_IbufCells :
    (∃ (i : Instr) (s t : State), exec i s = .next t) ∧
    (∀ a ∈ [0, 255], ∃ (s : State) (v : Word), s.cfg.ok = true ∧ s.resetIn = false ∧ a < s.cfg.ibufSize ∧
      s.busy = false ∧ s.events = .host (.write .ibuf a 8 v) :: []) ∧
    (∃ (s : State) (b : Byte), s.cfg.ok = true ∧ s.resetIn = false ∧ 255 < s.cfg.ibufSize ∧
      s.events = .host (.read .ibuf 255 8) :: [] ∧ Memory.read s.ibuf 255 = some b) ∧
    ∃ s : State, s.cfg.ok = true ∧ s.resetIn = false ∧ 255 < s.cfg.ibufSize ∧
      s.events = .host (.read .ibuf 255 8) :: [] ∧ Memory.read s.ibuf 255 = none :=
  ⟨⟨.nop, pendingOn [] 0 0 0 0, _, rfl⟩,
    fun a h => ⟨idleBefore (.host (.write .ibuf a 8 9)), 9, vectorParams_ok, rfl, by revert a; decide, rfl, rfl⟩,
    ⟨{ idleBefore (.host (.read .ibuf 255 8)) with ibuf := [(255, 7)] }, 7, by decide⟩,
    ⟨idleBefore (.host (.read .ibuf 255 8)), by decide⟩⟩

theorem witness_ObufCells :
    (∃ (s : State) (b : Byte), s.cfg.ok = true ∧ s.resetIn = false ∧ 255 < s.cfg.obufSize ∧ s.busy = false ∧
      s.events = .host (.read .obuf 255 8) :: [] ∧ Memory.read s.obuf 255 = some b) ∧
    (∃ s : State, s.cfg.ok = true ∧ s.resetIn = false ∧ 255 < s.cfg.obufSize ∧ s.busy = false ∧
      s.events = .host (.read .obuf 255 8) :: [] ∧ Memory.read s.obuf 255 = none) ∧
    ∃ s : State, s.cfg.ok = true ∧ s.resetIn = false ∧ 255 < s.cfg.obufSize ∧ s.busy = false ∧
      s.events = .host (.write .obuf 255 8 1) :: [] :=
  ⟨⟨{ idleBefore (.host (.read .obuf 255 8)) with obuf := [(255, 7)] }, 7, by decide⟩,
    ⟨idleBefore (.host (.read .obuf 255 8)), by decide⟩, ⟨idleBefore (.host (.write .obuf 255 8 1)), by decide⟩⟩

theorem witness_ResetTakesTheResetState :
    (∃ s : State, s.cfg.ok = true ∧ s.events = .assertReset :: []) ∧
    ∀ e ∈ [Event.releaseReset, .engine, evRd .status],
      ∃ s : State, s.cfg.ok = true ∧ s.resetIn = true ∧ s.events = e :: [] :=
  ⟨⟨idleBefore .assertReset, by decide⟩,
    fun e _ => ⟨{ idleBefore e with resetIn := true }, vectorParams_ok, rfl, rfl⟩⟩

/-- PEND holds some operands: the one hypothesis of the register commands' statements, CrcRegisterCommands and
NopAndErrClear. -/
theorem witness_CrcRegisterCommands : ∃ (s : State) (p : Pending), s.pend = some p := ⟨pendingOn [] 0 0 0 0, _, rfl⟩

theorem witness_NopAndErrClear : ∃ (s : State) (p : Pending), s.pend = some p := ⟨pendingOn [] 0 0 0 0, _, rfl⟩

/-- The clauses of a command that reads IBUF, at their edges: a range that ends one byte past IBUF, a range whose last cell
alone is unwritten, an empty range that starts at IBUF_SIZE, and a written range. -/
theorem input_clauses :
    (∃ (s : State) (p : Pending), s.pend = some p ∧ inputOutside s p) ∧
    (∃ (s : State) (p : Pending), s.pend = some p ∧ inputMissing s p) ∧
    (∃ (s : State) (p : Pending), s.pend = some p ∧ inputIs s p []) ∧
    ∃ (s : State) (p : Pending), s.pend = some p ∧ inputIs s p digits := by
  refine ⟨⟨pendingOn digits 0 257 0 0, _, rfl, ?_⟩, ⟨pendingOn digits 0 10 0 0, _, rfl, ?_⟩,
    ⟨pendingOn digits 256 0 0 0, _, rfl, ?_⟩, ⟨pendingOn digits 0 9 0 0, _, rfl, ?_⟩⟩
  · unfold inputOutside; decide
  · unfold inputMissing; decide
  · unfold inputIs; decide
  · unfold inputIs; decide

theorem witness_CrcBufFoldsTheInput :
    (∃ (s : State) (p : Pending), s.pend = some p ∧ inputOutside s p) ∧
    (∃ (s : State) (p : Pending), s.pend = some p ∧ inputMissing s p) ∧
    ∃ (s : State) (p : Pending) (bytes : List Byte), s.pend = some p ∧ inputIs s p bytes :=
  ⟨input_clauses.1, input_clauses.2.1, let ⟨s, p, h⟩ := input_clauses.2.2.2; ⟨s, p, digits, h⟩⟩

theorem witness_CrcChecksumOfTheInput :
    (∃ (s : State) (p : Pending), s.pend = some p ∧ inputOutside s p) ∧
    (∃ (s : State) (p : Pending), s.pend = some p ∧ inputMissing s p) ∧
    ∃ (s : State) (p : Pending) (bytes : List Byte), s.pend = some p ∧ inputIs s p bytes :=
  ⟨input_clauses.1, input_clauses.2.1, let ⟨s, p, h⟩ := input_clauses.2.2.1; ⟨s, p, [], h⟩⟩

theorem witness_IncrementalCrcIsTheChecksum :
    ∃ (s : State) (bytes : List Byte) (rest : List Event), s.cfg.ok = true ∧ s.resetIn = false ∧ s.busy = false ∧
      s.events = incrementalCrc bytes ++ rest :=
  ⟨{ State.reset with events := incrementalCrc [0x31] ++ [.assertReset] }, [0x31], [.assertReset], by decide⟩

theorem witness_CrcRegisterIsPrivate :
    ∃ i : Instr, i ≠ .crcInit ∧ (∀ b, i ≠ .crcByte b) ∧ i ≠ .crcBuf ∧ i ≠ .crcFinal :=
  ⟨.crcChecksum, by decide, fun b => by simp, by decide, by decide⟩

theorem witness_TypeLoadFromKey :
    (∃ (s : State) (p : Pending) (t : TypeBytes), s.pend = some p ∧ p.key.toNat = packed t ∧ allAlphabetic t) ∧
    ∃ (s : State) (p : Pending) (t : TypeBytes), s.pend = some p ∧ p.key.toNat = packed t ∧ ¬ allAlphabetic t := by
  refine ⟨⟨pendingOn [] 0 0 0x5A617A41 0, _, ⟨0x5A, 0x61, 0x7A, 0x41⟩, rfl, by decide, ?_⟩,
    ⟨pendingOn [] 0 0 0xC1414141 0, _, ⟨0xC1, 0x41, 0x41, 0x41⟩, rfl, by decide, ?_⟩⟩ <;>
  · unfold allAlphabetic alphabetic; decide

theorem witness_TypeLoadFromText :
    (∃ (s : State) (p : Pending), s.pend = some p ∧ inputOutside s p) ∧
    (∃ (s : State) (p : Pending), s.pend = some p ∧ ¬ inputOutside s p ∧ p.len ≠ 4) ∧
    (∃ (s : State) (p : Pending), s.pend = some p ∧ p.len = 4 ∧ inputMissing s p) ∧
    (∃ (s : State) (p : Pending) (t : TypeBytes), s.pend = some p ∧ inputIs s p [t.b0, t.b1, t.b2, t.b3] ∧
      allAlphabetic t) ∧
    ∃ (s : State) (p : Pending) (t : TypeBytes), s.pend = some p ∧ inputIs s p [t.b0, t.b1, t.b2, t.b3] ∧
      ¬ allAlphabetic t := by
  refine ⟨⟨pendingOn [] 253 4 0 0, _, rfl, ?_⟩, ⟨pendingOn [] 253 3 0 0, _, rfl, ?_, by decide⟩,
    ⟨pendingOn [0x52, 0x75, 0x53] 0 4 0 0, _, rfl, rfl, ?_⟩,
    ⟨pendingOn [0x52, 0x75, 0x53, 0x74] 0 4 0 0, _, ruSt, rfl, ?_, ?_⟩,
    ⟨pendingOn [0x52, 0x75, 0x31, 0x74] 0 4 0 0, _, ⟨0x52, 0x75, 0x31, 0x74⟩, rfl, ?_, ?_⟩⟩
  · unfold inputOutside; decide
  · unfold inputOutside; decide
  · unfold inputMissing; decide
  · unfold inputIs; decide
  · unfold allAlphabetic alphabetic; decide
  · unfold inputIs; decide
  · unfold allAlphabetic alphabetic; decide

theorem witness_TypeQueriesReadTheCaseBits :
    (∃ (b : Byte), alphabetic b) ∧ (∃ (s : State) (p : Pending) (t : TypeBytes), s.pend = some p ∧ s.ctype = some t) ∧
    ∃ (s : State) (p : Pending), s.pend = some p ∧ s.ctype = none := by
  refine ⟨⟨0x7A, ?_⟩, ⟨{ pendingOn [] 0 0 0 0 with ctype := some ruSt }, _, ruSt, rfl, rfl⟩,
    ⟨pendingOn [] 0 0 0 0, _, rfl, rfl⟩⟩
  unfold alphabetic; decide

theorem witness_TypeBytesAndText :
    (∃ (s : State) (p : Pending) (t : TypeBytes), s.pend = some p ∧ s.ctype = some t) ∧
    ∃ (s : State) (p : Pending), s.pend = some p ∧ s.ctype = none :=
  ⟨⟨{ pendingOn [] 0 0 0 0 with ctype := some ruSt }, _, ruSt, rfl, rfl⟩, ⟨pendingOn [] 0 0 0 0, _, rfl, rfl⟩⟩

theorem witness_ChunkBuildFromTypeAndInput :
    (∃ (s : State) (p : Pending), s.pend = some p ∧ s.ctype = none) ∧
    (∃ (s : State) (p : Pending) (t : TypeBytes), s.pend = some p ∧ s.ctype = some t ∧ inputOutside s p) ∧
    (∃ (s : State) (p : Pending) (t : TypeBytes), s.pend = some p ∧ s.ctype = some t ∧ ¬ inputOutside s p ∧
      s.cfg.maxData < p.len.toNat) ∧
    (∃ (s : State) (p : Pending) (t : TypeBytes), s.pend = some p ∧ s.ctype = some t ∧
      p.len.toNat ≤ s.cfg.maxData ∧ inputMissing s p) ∧
    ∃ (s : State) (p : Pending) (t : TypeBytes) (d : List Byte), s.pend = some p ∧ s.ctype = some t ∧
      p.len.toNat ≤ s.cfg.maxData ∧ inputIs s p d := by
  refine ⟨⟨pendingOn [] 0 0 0 0, _, rfl, rfl⟩,
    ⟨{ pendingOn [] 256 1 0 0 with ctype := some ruSt }, _, ruSt, rfl, rfl, ?_⟩,
    ⟨{ pendingOn [] 0 65 0 0 with ctype := some ruSt }, _, ruSt, rfl, rfl, ?_, by decide⟩,
    ⟨{ pendingOn [] 0 64 0 0 with ctype := some ruSt }, _, ruSt, rfl, rfl, by decide, ?_⟩,
    ⟨{ pendingOn digits 0 9 0 0 with ctype := some ruSt }, _, ruSt, digits, rfl, rfl, by decide, ?_⟩⟩
  · unfold inputOutside; decide
  · unfold inputOutside; decide
  · unfold inputMissing; exact ⟨by decide, 0, by decide, rfl⟩
  · unfold inputIs; decide

theorem witness_ParseChunkChecksInOrder :
    (∃ r : List Byte, r.length < 12) ∧
    (∃ (cfg : Params) (h d f : List Byte), h.length = 4 ∧ f.length = 4 ∧ cfg.maxData < d.length) ∧
    (∃ (cfg : Params) (h : List Byte) (t : TypeBytes) (d f : List Byte),
      h.length = 4 ∧ f.length = 4 ∧ d.length ≤ cfg.maxData ∧ ¬ allAlphabetic t) ∧
    (∃ (cfg : Params) (h : List Byte) (t : TypeBytes) (d f : List Byte), h.length = 4 ∧ f.length = 4 ∧
      d.length ≤ cfg.maxData ∧ allAlphabetic t ∧
        f ≠ bigEndian (crc32 ([t.b0, t.b1, t.b2, t.b3] ++ d)).toNat) ∧
    ∃ (cfg : Params) (h : List Byte) (t : TypeBytes) (d f : List Byte), h.length = 4 ∧ f.length = 4 ∧
      d.length ≤ cfg.maxData ∧ allAlphabetic t ∧
        f = bigEndian (crc32 ([t.b0, t.b1, t.b2, t.b3] ++ d)).toNat := by
  refine ⟨⟨iendRecord.take 11, by decide⟩,
    ⟨Config.vectorParams, [0, 0, 0, 65], List.replicate 65 0, [0, 0, 0, 0], by decide⟩,
    ⟨Config.vectorParams, [0, 0, 0, 64], ⟨0x49, 0x45, 0x4E, 0x31⟩, List.replicate 64 0, [0, 0, 0, 0], rfl, rfl,
      by decide, ?_⟩,
    ⟨Config.vectorParams, [0, 0, 0, 0], iend, [], [0xAE, 0x42, 0x60, 0x83], rfl, rfl, by decide, ?_,
      by decide +kernel⟩,
    ⟨Config.vectorParams, [0, 0, 0, 0], iend, [], [0xAE, 0x42, 0x60, 0x82], rfl, rfl, by decide, ?_,
      by decide +kernel⟩⟩ <;>
  · unfold allAlphabetic alphabetic; decide

theorem witness_ChunkParseFromInput :
    (∃ (s : State) (p : Pending), s.pend = some p ∧ inputOutside s p) ∧
    (∃ (s : State) (p : Pending), s.pend = some p ∧ inputMissing s p) ∧
    (∃ (s : State) (p : Pending) (r : List Byte) (e : ErrCode), s.pend = some p ∧ inputIs s p r ∧
      parseChunk s.cfg r = .error e) ∧
    ∃ (s : State) (p : Pending) (a b c d : Byte) (more : List Byte) (ch : Chunk), s.pend = some p ∧
      inputIs s p (a :: b :: c :: d :: more) ∧
      parseChunk s.cfg (a :: b :: c :: d :: more) = .ok ch := by
  obtain ⟨h₁, h₂, h₃, _⟩ := input_clauses
  obtain ⟨s, p, hp, hi⟩ := h₃
  refine ⟨h₁, h₂, ⟨s, p, [], .malformed, hp, hi, rfl⟩,
    ⟨pendingOn iendRecord 0 12 0 0, _, 0x00, 0x00, 0x00, 0x00, iendRecord.drop 4, chunkA, rfl, ?_, by decide +kernel⟩⟩
  unfold inputIs; decide

theorem witness_ChunkFieldsOfW :
    (∃ (s : State) (p : Pending) (c : Chunk), s.pend = some p ∧ s.w = some c) ∧
    ∃ (s : State) (p : Pending), s.pend = some p ∧ s.w = none :=
  ⟨⟨{ pendingOn [] 0 0 0 0 with w := some chunkB }, _, chunkB, rfl, rfl⟩, ⟨pendingOn [] 0 0 0 0, _, rfl, rfl⟩⟩

theorem witness_ChunkTypeTextOfW :
    (∃ (s : State) (p : Pending), s.pend = some p ∧ s.w = none) ∧
    ∃ (s : State) (p : Pending) (c : Chunk), s.pend = some p ∧ s.w = some c :=
  ⟨⟨pendingOn [] 0 0 0 0, _, rfl, rfl⟩, ⟨{ pendingOn [] 0 0 0 0 with w := some chunkA }, _, chunkA, rfl, rfl⟩⟩

/-- Parameters whose OBUF holds 13 bytes and whose chunks may hold 64. -/
def smallOutput : Params := { Config.vectorParams with obufSize := 13 }

theorem witness_ChunkDataTextOfW :
    (∃ (s : State) (p : Pending), s.pend = some p ∧ s.w = none) ∧
    (∃ (s : State) (p : Pending) (c : Chunk), s.pend = some p ∧ s.w = some c ∧ utf8Valid c.data = false) ∧
    (∃ (s : State) (p : Pending) (c : Chunk), s.pend = some p ∧ s.w = some c ∧ utf8Valid c.data = true ∧
      s.cfg.obufSize < c.data.length) ∧
    ∃ (s : State) (p : Pending) (c : Chunk), s.pend = some p ∧ s.w = some c ∧ utf8Valid c.data = true ∧
      c.data.length ≤ s.cfg.obufSize :=
  ⟨⟨pendingOn [] 0 0 0 0, _, rfl, rfl⟩,
    ⟨{ pendingOn [] 0 0 0 0 with w := some ⟨rust, [0xFF, 0x00]⟩ }, _, ⟨rust, [0xFF, 0x00]⟩, rfl, rfl, by decide⟩,
    ⟨{ pendingOn [] 0 0 0 0 with w := some ⟨ruSt, message.take 14⟩, cfg := smallOutput }, _,
      ⟨ruSt, message.take 14⟩, rfl, rfl, by decide⟩,
    ⟨{ pendingOn [] 0 0 0 0 with w := some ⟨ruSt, message.take 13⟩, cfg := smallOutput }, _,
      ⟨ruSt, message.take 13⟩, rfl, rfl, by decide⟩⟩

theorem witness_ChunkSerializeOfW :
    (∃ c : Chunk, c.data.length < 2 ^ 32) ∧
    (∃ (s : State) (p : Pending), s.pend = some p ∧ s.w = none) ∧
    (∃ (s : State) (p : Pending) (c : Chunk), s.pend = some p ∧ s.w = some c ∧ c.data.length < 2 ^ 32 ∧
      s.cfg.obufSize < 12 + c.data.length) ∧
    ∃ (s : State) (p : Pending) (c : Chunk), s.pend = some p ∧ s.w = some c ∧ c.data.length < 2 ^ 32 ∧
      12 + c.data.length ≤ s.cfg.obufSize :=
  ⟨⟨chunkA, by decide⟩, ⟨pendingOn [] 0 0 0 0, _, rfl, rfl⟩,
    ⟨{ pendingOn [] 0 0 0 0 with w := some chunkD, cfg := smallOutput }, _, chunkD, rfl, rfl, by decide⟩,
    ⟨{ pendingOn [] 0 0 0 0 with w := some ⟨tEXt, [0x61]⟩, cfg := smallOutput }, _,
      ⟨tEXt, [0x61]⟩, rfl, rfl, by decide⟩⟩

theorem witness_ChunkRoundTrip :
    (∃ (cfg : Params) (c : Chunk), cfg.ok = true ∧ c.wf cfg = true) ∧
    ∃ (cfg : Params) (a b c d : Byte) (more : List Byte) (ch : Chunk), cfg.ok = true ∧
      parseChunk cfg (a :: b :: c :: d :: more) = .ok ch :=
  ⟨⟨Config.vectorParams, chunkD, by decide⟩,
    ⟨Config.vectorParams, 0x05, 0x00, 0x00, 0x00, iendRecord.drop 4, chunkA, by decide, by decide +kernel⟩⟩

/-- One flip for each field of the wire form, at its first and its last byte, and the two kinds of flip of a type byte. -/
theorem witness_SingleBitFlips :
    (∀ x ∈ [((0 : Nat), (0 : Nat)), (3, 7), (4, 7), (7, 5), (8, 0), (9, 7), (10, 0), (13, 7)],
      ∃ (cfg : Params) (c : Chunk) (b : Byte), cfg.ok = true ∧ c.wf cfg = true ∧ x.2 < 8 ∧
        c.serialize[x.1]? = some b) ∧
    (∃ (c : Chunk) (b : Byte), c.serialize[4]? = some b ∧ ¬ alphabetic (b ^^^ BitVec.ofNat 8 (2 ^ 7))) ∧
    ∃ (c : Chunk) (b : Byte), c.serialize[7]? = some b ∧ alphabetic (b ^^^ BitVec.ofNat 8 (2 ^ 5)) := by
  have hlen : ∀ x ∈ [((0 : Nat), (0 : Nat)), (3, 7), (4, 7), (7, 5), (8, 0), (9, 7), (10, 0), (13, 7)],
      x.2 < 8 ∧ (chunkD.serialize[x.1]?).isSome = true := by decide
  refine ⟨fun x h => ?_, ⟨chunkD, 0x74, by decide, ?_⟩, ⟨chunkD, 0x74, by decide +kernel, ?_⟩⟩
  · obtain ⟨b, hb⟩ := Option.isSome_iff_exists.mp (hlen x h).2
    exact ⟨Config.vectorParams, chunkD, b, by decide, by decide, (hlen x h).1, hb⟩
  · unfold alphabetic; decide
  · unfold alphabetic; decide

/-- The cases of R152's loop after one record: nothing more, 11 bytes, a length one past the end, a chunk that fails, a
store that is full, and one more chunk that ends where the input ends. -/
theorem witness_ParsePngRecordByRecord :
    (∃ r : List Byte, r.length < 8) ∧ (∃ r : List Byte, 8 ≤ r.length ∧ r.take 8 ≠ fileForm []) ∧
    (∃ (cfg : Params) (L : List Chunk), cfg.ok = true ∧ (∀ c ∈ L, c.wf cfg = true) ∧ storeOK cfg L = true) ∧
    (∃ r : List Byte, r ≠ [] ∧ r.length < 12) ∧
    (∃ r : List Byte, r = [0x00, 0x00, 0x00, 0x01] ++ iendRecord.drop 4 ∧ 12 ≤ r.length ∧
      r.length - 12 < packed ⟨0x00, 0x00, 0x00, 0x01⟩) ∧
    (∃ (cfg : Params) (r : List Byte) (e : ErrCode), cfg.ok = true ∧ r = iendRecord.take 11 ++ [0x83] ∧
      12 ≤ r.length ∧ packed ⟨0x00, 0x00, 0x00, 0x00⟩ ≤ r.length - 12 ∧
      parseChunk cfg (r.take (12 + packed ⟨0x00, 0x00, 0x00, 0x00⟩)) = .error e) ∧
    (∃ (cfg : Params) (L : List Chunk) (ch : Chunk), cfg.ok = true ∧ (∀ c ∈ L, c.wf cfg = true) ∧
      storeOK cfg L = true ∧ parseChunk cfg iendRecord = .ok ch ∧ storeOK cfg (L ++ [ch]) = false) ∧
    ∃ (cfg : Params) (L : List Chunk) (ch : Chunk), cfg.ok = true ∧ (∀ c ∈ L, c.wf cfg = true) ∧
      storeOK cfg L = true ∧ parseChunk cfg iendRecord = .ok ch ∧ storeOK cfg (L ++ [ch]) = true := by
  refine ⟨⟨signature.take 7, by decide⟩, ⟨0x88 :: signature.drop 1, by decide, by decide⟩,
    ⟨Config.vectorParams, [chunkD], by decide⟩, ⟨iendRecord.take 11, by decide⟩, ⟨_, rfl, by decide⟩,
    ⟨Config.vectorParams, _, .crcMismatch, by decide, rfl, by decide +kernel⟩,
    ⟨Config.vectorParams, [chunkA, chunkA, chunkA, chunkA], chunkA, by decide +kernel⟩,
    ⟨Config.vectorParams, [chunkA, chunkA, chunkA], chunkA, by decide +kernel⟩⟩

theorem witness_ContainerRoundTrip :
    (∃ (cfg : Params) (r : List Byte) (L : List Chunk), cfg.ok = true ∧ parsePng cfg r = .ok L) ∧
    ∃ (cfg : Params) (L : List Chunk), cfg.ok = true ∧ (∀ c ∈ L, c.wf cfg = true) ∧ storeOK cfg L = true :=
  ⟨⟨Config.vectorParams, signature ++ iendRecord, [chunkA], by decide, by decide +kernel⟩,
    ⟨Config.vectorParams, [chunkD, chunkA, chunkB, chunkC], by decide⟩⟩

theorem witness_PngParseReplacesTheStore :
    (∃ (s : State) (p : Pending), s.pend = some p ∧ inputOutside s p) ∧
    (∃ (s : State) (p : Pending), s.pend = some p ∧ inputMissing s p) ∧
    (∃ (s : State) (p : Pending) (r : List Byte) (code sub : ErrCode) (off : Nat), s.pend = some p ∧
      inputIs s p r ∧ parsePng s.cfg r = .error ⟨code, sub, off⟩ ∧
      off < p.len.toNat) ∧
    (∃ (s : State) (p : Pending) (r : List Byte) (code sub : ErrCode), s.pend = some p ∧ inputIs s p r ∧
      parsePng s.cfg r = .error ⟨code, sub, 0⟩ ∧
      ¬ 0 < p.len.toNat) ∧
    ∃ (s : State) (p : Pending) (r : List Byte) (L : List Chunk), s.pend = some p ∧ inputIs s p r ∧
      parsePng s.cfg r = .ok L := by
  refine ⟨input_clauses.1, input_clauses.2.1,
    ⟨pendingOn (signature ++ [0x00]) 0 9 0 0, _, signature ++ [0x00], .chunkParseFailure, .malformed, 8, rfl, ?_,
      by decide, by decide⟩,
    ⟨pendingOn [] 0 0 0 0, _, [], .badSignature, .success, rfl, ?_, by decide, by decide⟩,
    ⟨pendingOn signature 0 8 0 0, _, signature, [], rfl, ?_, by decide⟩⟩ <;>
  · unfold inputIs; decide

theorem witness_PngAppendMovesW :
    (∃ (s : State) (p : Pending), s.pend = some p ∧ s.w = none) ∧
    (∃ (s : State) (p : Pending) (c : Chunk), s.pend = some p ∧ s.w = some c ∧
      s.store.length + 1 ≤ s.cfg.maxChunks ∧
      (s.store.map (fun d => d.data.length)).sum + c.data.length ≤ s.cfg.storeBytes) ∧
    (∃ (s : State) (p : Pending) (c : Chunk), s.pend = some p ∧ s.w = some c ∧
      ¬ s.store.length + 1 ≤ s.cfg.maxChunks) ∧
    ∃ (s : State) (p : Pending) (c : Chunk), s.pend = some p ∧ s.w = some c ∧
      ¬ (s.store.map (fun d => d.data.length)).sum + c.data.length ≤ s.cfg.storeBytes :=
  ⟨⟨pendingOn [] 0 0 0 0, _, rfl, rfl⟩,
    ⟨{ pendingOn [] 0 0 0 0 with store := [⟨tEXt, List.replicate 125 0⟩], w := some chunkB }, _, chunkB, rfl, rfl,
      by decide, by decide +kernel⟩,
    ⟨{ pendingOn [] 0 0 0 0 with store := [chunkA, chunkA, chunkA, chunkA], w := some chunkB }, _, chunkB, rfl, rfl,
      by decide⟩,
    ⟨{ pendingOn [] 0 0 0 0 with store := [⟨tEXt, List.replicate 126 0⟩], w := some chunkB }, _, chunkB, rfl, rfl,
      by decide +kernel⟩⟩

/-- The store of V-PNG-S6: its first "RuSt" is at index 1, its last chunk is a "RuSt" too. -/
def fourChunks : List Chunk := [chunkA, chunkB, chunkD, chunkC]

theorem first_ruSt : firstOfType fourChunks ruSt 1 chunkB := by
  refine ⟨rfl, rfl, fun j hj d hd => ?_⟩
  obtain rfl : j = 0 := by omega
  obtain rfl : chunkA = d := by simpa [fourChunks] using hd
  decide

theorem witness_PngFindCopiesTheFirst :
    (∃ (s : State) (p : Pending) (t : TypeBytes) (i : Nat) (c : Chunk), s.pend = some p ∧ p.key.toNat = packed t ∧
      firstOfType s.store t i c) ∧
    ∃ (s : State) (p : Pending) (t : TypeBytes), s.pend = some p ∧ p.key.toNat = packed t ∧
      ∀ c ∈ s.store, c.type ≠ t :=
  ⟨⟨{ pendingOn [] 0 0 0x52755374 0 with store := fourChunks }, _, ruSt, 1, chunkB, rfl, by decide, first_ruSt⟩,
    ⟨{ pendingOn [] 0 0 0 0 with store := fourChunks }, _, ⟨0, 0, 0, 0⟩, rfl, by decide, by decide⟩⟩

theorem witness_PngRemoveTakesTheFirst :
    (∃ (s : State) (p : Pending) (t : TypeBytes) (i : Nat) (c : Chunk), s.pend = some p ∧ p.key.toNat = packed t ∧
      firstOfType s.store t i c) ∧
    ∃ (s : State) (p : Pending) (t : TypeBytes), s.pend = some p ∧ p.key.toNat = packed t ∧
      ∀ c ∈ s.store, c.type ≠ t :=
  ⟨⟨{ pendingOn [] 0 0 0x52755374 0 with store := fourChunks }, _, ruSt, 1, chunkB, rfl, by decide, first_ruSt⟩,
    ⟨{ pendingOn [] 0 0 0x52757374 0 with store := fourChunks }, _, rust, rfl, by decide, by decide⟩⟩

theorem witness_AppendThenRemoveGivesBack :
    ∃ (s t : State) (p q : Pending) (c : Chunk), s.pend = some p ∧ s.w = some c ∧ (∀ d ∈ s.store, d.type ≠ c.type) ∧
      storeOK s.cfg (s.store ++ [c]) = true ∧ exec .pngAppend s = .next t ∧ q.key.toNat = packed c.type :=
  ⟨{ pendingOn [] 0 0 0 0 with store := [chunkA], w := some chunkB }, _, _, ⟨0x33, 0, 0, 0x52755374, 0⟩, chunkB,
    rfl, rfl, by decide, by decide, rfl, by decide⟩

theorem witness_PngCountAndGet :
    (∃ (s : State) (p : Pending), s.pend = some p ∧ s.store.length = p.idx.toNat) ∧
    ∃ (s : State) (p : Pending), s.pend = some p ∧ p.idx.toNat + 1 = s.store.length :=
  ⟨⟨{ pendingOn [] 0 0 0 4 with store := fourChunks }, _, rfl, by decide⟩,
    ⟨{ pendingOn [] 0 0 0 3 with store := fourChunks }, _, rfl, by decide⟩⟩

theorem witness_PngSerializeWritesTheContainer :
    (∃ (s : State) (p : Pending), s.pend = some p ∧ (∀ c ∈ s.store, c.data.length < 2 ^ 32) ∧
      (fileForm s.store).length = s.cfg.obufSize + 1) ∧
    ∃ (s : State) (p : Pending), s.pend = some p ∧ (∀ c ∈ s.store, c.data.length < 2 ^ 32) ∧
      (fileForm s.store).length = s.cfg.obufSize :=
  ⟨⟨{ pendingOn [] 0 0 0 0 with store := [chunkD, chunkA], cfg := { smallOutput with obufSize := 33 } }, _, rfl,
      by decide, by decide⟩,
    ⟨{ pendingOn [] 0 0 0 0 with store := [chunkD, chunkA], cfg := { smallOutput with obufSize := 34 } }, _, rfl,
      by decide, by decide⟩⟩

theorem witness_CommandsEndByFinishOrRaise :
    (∃ (i : Instr) (s t : State), exec i s = .next t ∧ t.err = .success ∧ i ≠ .errClear) ∧
    ∃ (i : Instr) (s t : State), exec i s = .next t ∧ t.err ≠ .success :=
  ⟨⟨.nop, pendingOn [] 0 0 0 0, _, rfl, rfl, by decide⟩, ⟨.typeBytes, pendingOn [] 0 0 0 0, _, rfl, by decide⟩⟩

/-- A next state, and one for each `≠` premise: a command that changes CRC, FOUND, CTYPE, W, S and OVERRUN. -/
theorem witness_WritersOfEachState :
    (∃ (i : Instr) (s t : State), exec i s = .next t ∧ t.crc ≠ s.crc) ∧
    (∃ (i : Instr) (s t : State), exec i s = .next t ∧ t.found ≠ s.found) ∧
    (∃ (i : Instr) (s t : State), exec i s = .next t ∧ t.ctype ≠ s.ctype) ∧
    (∃ (i : Instr) (s t : State), exec i s = .next t ∧ t.store ≠ s.store ∧ t.w = none ∧ s.w ≠ none) ∧
    ∃ (i : Instr) (s t : State), exec i s = .next t ∧ t.overrun ≠ s.overrun :=
  ⟨⟨.crcInit, { pendingOn [] 0 0 0 0 with crc := 0 }, _, rfl, by decide⟩,
    ⟨.pngFind, { pendingOn [] 0 0 0 0 with found := true }, _, rfl, by decide⟩,
    ⟨.chunkType, { pendingOn [] 0 0 0 0 with w := some chunkB }, _, rfl, by decide⟩,
    ⟨.pngAppend, { pendingOn [] 0 0 0 0 with w := some chunkB }, _, rfl, by decide⟩,
    ⟨.errClear, { pendingOn [] 0 0 0 0 with overrun := true }, _, rfl, by decide⟩⟩

theorem witness_StickyAndOverrunHistory :
    (∃ s t : State, step s = .next t ∧ s.sticky = true ∧ t.sticky = false ∧ s.overrun = true ∧ t.overrun = false) ∧
    (∃ s t : State, step s = .next t ∧ s.sticky = false ∧ t.sticky = true) ∧
    ∃ s t : State, step s = .next t ∧ s.overrun = false ∧ t.overrun = true :=
  ⟨⟨{ State.reset with sticky := true, overrun := true, events := [.assertReset] }, _, rfl, by decide⟩,
    ⟨{ State.reset with busy := true, pend := some ⟨0x17, 0, 0, 0, 0⟩ }, _, rfl, by decide⟩,
    ⟨busyBefore (cmdWrite 1), _, rfl, by decide⟩⟩

/-- Each of the four faults arises. -/
theorem witness_FaultsExactly :
    (∃ s : State, s.cfg.ok = true ∧ step s = .fault .hostHazard) ∧
    (∃ s : State, s.cfg.ok = true ∧ step s = .fault .uninitRead) ∧
    (∃ s : State, s.cfg.ok = true ∧ step s = .fault .uninitInput) ∧
    ∃ s : State, s.cfg.ok = true ∧ step s = .fault .hostBusError :=
  ⟨⟨busyBefore (evWb 255 1), by decide, rfl⟩, ⟨idleBefore (evRb .obuf 255), by decide, rfl⟩,
    ⟨{ State.reset with busy := true, pend := some ⟨0x03, 255, 1, 0, 0⟩ }, by decide, rfl⟩,
    ⟨idleBefore (evRb .obuf 256), by decide, rfl⟩⟩

theorem witness_HazardFreeStepsComplete :
    (∃ s : State, s.cfg.ok = true ∧ s.events = [] ∧ s.respectful) ∧
    ∃ s : State, s.cfg.ok = true ∧ s.events ≠ [] ∧ s.respectful := by
  refine ⟨⟨State.reset, by decide, rfl, fun p i h => by cases h⟩,
    ⟨idleBefore (evWb 255 1), by decide, by decide, rfl, ?_⟩⟩
  exact ⟨by decide, rfl⟩

/-- A state in mid-run: two stored chunks, a chunk type, a working chunk, output in OBUF, a failure recorded, and PNG_APPEND
pending. -/
def midRun : State :=
  { State.reset with
    busy := true, pend := some ⟨0x31, 0, 0, 0, 0⟩, ctype := some iend, w := some chunkB, store := [chunkA, chunkD],
    err := .chunkParseFailure, suberr := .crcMismatch, sticky := true, errOffset := 8,
    ibuf := cells 0 digits, obuf := cells 0 [0x74, 0x45, 0x58, 0x74], outLen := 4, events := [.engine] }

theorem midRun_inv : midRun.Inv where
  cfgOk := by decide
  busyPend := rfl
  busyNotDone := fun _ => rfl
  ctypeValid := by intro t h; cases h; decide
  workValid := by intro c h; cases h; decide
  storeValid := by decide
  storeFits := by decide
  suberrCause := by decide
  errSticky := fun _ => rfl
  ibufWf := by decide
  ibufWithin := by decide
  obufWf := by decide
  obufWithin := by decide
  outWritten := by decide
  resetHeld := fun h => by cases h

theorem witness_EveryStepKeepsTheInvariant : ∃ s t : State, s.Inv ∧ step s = .next t :=
  ⟨midRun, _, midRun_inv, rfl⟩

theorem witness_ResetMeetsTheInvariant : ∃ cfg : Params, cfg.ok = true ∧ cfg ≠ Config.vectorParams :=
  ⟨⟨12, 12, 0, 0, 0, 0, 0, 0⟩, by decide⟩

end Sys2Proof.Tests
end

section
namespace Sys2Proof.Proofs

open Sys2Proof.Machine Sys2Proof.Claims Sys2Proof.Laws

/-! ## What an executed command can write, said once for all 32 commands -/

/-- The chunk-level causes that may stand in SUBERR (spec/60_exceptions.md R182). -/
def chunkCauses : List ErrCode := [.malformed, .oversizedPayload, .invalidChunkType, .crcMismatch]

/-- The pairs ERR, SUBERR an error entry may record (R182). -/
def ErrorFits (e sub : ErrCode) : Prop :=
  e ≠ .success ∧ if e = .chunkParseFailure then sub ∈ chunkCauses else sub = .success

theorem errorFits_alone {e : ErrCode} (h : e ≠ .success) (hcp : e ≠ .chunkParseFailure) : ErrorFits e .success :=
  ⟨h, by simp [hcp]⟩

theorem errorFits_chunkParse {sub : ErrCode} (h : sub ∈ chunkCauses) : ErrorFits .chunkParseFailure sub :=
  ⟨nofun, by simpa using h⟩

theorem errorFits_of_cause {e : ErrCode} (h : e ∈ chunkCauses) : ErrorFits e .success := by
  refine errorFits_alone ?_ ?_ <;> rintro rfl <;> revert h <;> decide

/-- The commands whose only write before `finish` is RESULT. -/
def writesOnlyResult (i : Instr) : Bool :=
  match i with
  | .crcFinal | .crcChecksum | .crcTable _ | .typeIsCritical | .typeIsPublic | .typeIsReservedValid
  | .typeIsSafeToCopy | .typeIsValid | .typeBytes | .chunkLength | .chunkCrc | .pngCount => true
  | .nop | .crcInit | .crcByte _ | .crcBuf | .typeLoad | .typeLoadText | .typeText | .chunkBuild | .chunkParse
  | .chunkType | .chunkTypeText | .chunkDataText | .chunkSerialize | .pngParse | .pngAppend | .pngFind | .pngRemove
  | .pngGet | .pngSerialize | .errClear => false

/-- `Writes s i u`: command `i`, run from `s`, may come to `finish` with the state `u`. `endsIn_exec` ties it to `exec`. -/
inductive Writes (s : State) : Instr → State → Prop
  | nothing : Writes s .nop s
  | crc {i : Instr} (v : Word) (hi : i = .crcInit ∨ (∃ b, i = .crcByte b) ∨ i = .crcBuf) : Writes s i { s with crc := v }
  | result {i : Instr} (v : Word) (hi : writesOnlyResult i = true) : Writes s i { s with result := v }
  | typeLoaded {i : Instr} {ty : TypeBytes} (hi : i = .typeLoad ∨ i = .typeLoadText) (hty : ty.valid = true) :
      Writes s i { s with ctype := some ty }
  | typeOfChunk {c : Chunk} (v : Word) (hw : s.w = some c) :
      Writes s .chunkType { s with ctype := some c.type, result := v }
  | typeText (ty : TypeBytes) : Writes s .typeText (s.output ty.bytes)
  | chunkTypeText (ty : TypeBytes) : Writes s .chunkTypeText { s.output ty.bytes with result := 1 }
  | dataText {bytes : List Byte} (hlen : bytes.length ≤ s.cfg.obufSize) :
      Writes s .chunkDataText { s.output bytes with result := 1 }
  | noDataText : Writes s .chunkDataText { s with outLen := 0, result := 0 }
  | serialized {i : Instr} {bytes : List Byte} (hi : i = .chunkSerialize ∨ i = .pngSerialize)
      (hlen : bytes.length ≤ s.cfg.obufSize) : Writes s i (s.output bytes)
  | built {ty : TypeBytes} {d : List Byte} (hty : s.ctype = some ty) (hd : d.length ≤ s.cfg.maxData) :
      Writes s .chunkBuild { s with w := some ⟨ty, d⟩ }
  | parsed {c : Chunk} (v : Word) (hc : c.wf s.cfg = true) : Writes s .chunkParse { s with w := some c, result := v }
  | stored {L : List Chunk} (v : Word) (hL : ∀ c ∈ L, c.wf s.cfg = true) (hfit : storeOK s.cfg L = true) :
      Writes s .pngParse { s with store := L, result := v }
  | appended {c : Chunk} (v : Word) (hw : s.w = some c) (hfit : storeOK s.cfg (s.store ++ [c]) = true) :
      Writes s .pngAppend { s with store := s.store ++ [c], w := none, result := v }
  | found {c : Chunk} (v : Word) (hc : c ∈ s.store) :
      Writes s .pngFind { s with w := some c, found := true, result := v }
  | removed {c : Chunk} (k : Nat) (v : Word) (hc : c ∈ s.store) :
      Writes s .pngRemove { s with w := some c, store := removeAt s.store k, found := true, result := v }
  | notFound {i : Instr} (hi : i = .pngFind ∨ i = .pngRemove) :
      Writes s i { s with found := false, result := notFoundResult }
  | got {c : Chunk} (hc : c ∈ s.store) : Writes s .pngGet { s with w := some c }
  | cleared : Writes s .errClear { s with sticky := false, overrun := false, errOffset := 0 }

/-- The two ends of a command: `raise` from the state before it, or `finish` on what it wrote (R184, R185). -/
inductive Ends (s : State) (i : Instr) : State → Prop
  | raised {e sub : ErrCode} (off : Nat) (hfits : ErrorFits e sub) : Ends s i (s.raised e sub off)
  | finished {u : State} (hw : Writes s i u) : Ends s i u.finished

/-- Every next state an outcome may answer is an end of the command. -/
def EndsIn (s : State) (i : Instr) (r : Result) : Prop := ∀ t, r = .next t → Ends s i t

/-! ## The codec's answers are chunk values and chunk-level causes -/

theorem chunkTypeOf_valid {bytes : List Byte} {ty : TypeBytes} (h : chunkTypeOf bytes = some ty) : ty.valid = true := by
  unfold chunkTypeOf at h
  split at h
  · split at h
    · next hv => cases h; exact hv
    · cases h
  · cases h

/-- ParseChunk answers a chunk value (R120) ... -/
theorem parseChunk_wf {cfg : Params} {r : List Byte} {c : Chunk} (h : parseChunk cfg r = .ok c) : c.wf cfg = true := by
  unfold parseChunk at h
  split at h
  · cases h
  · split at h
    · cases h
    · split at h
      · cases h
      · next hmax _ ty hty =>
        dsimp only at h
        split at h
        · cases h
        · cases h
          have hlen : (slice r 8 (r.length - 4)).length ≤ cfg.maxData := by
            simp only [slice, List.length_take, List.length_drop]; omega
          simp [Chunk.wf, chunkTypeOf_valid hty, hlen]

/-- ... or one of the four chunk-level causes. -/
theorem parseChunk_cause {cfg : Params} {r : List Byte} {e : ErrCode} (h : parseChunk cfg r = .error e) :
    e ∈ chunkCauses := by
  unfold parseChunk at h
  split at h
  · cases h; decide
  · split at h
    · cases h; decide
    · split at h
      · cases h; decide
      · dsimp only at h
        split at h
        · cases h; decide
        · cases h

/-- ParsePng's loop keeps a list of chunk values that satisfies StoreOK (R151, R152). -/
theorem parseRecords_ok {cfg : Params} {r : List Byte} {skip pos : Nat} {L M : List Chunk}
    (hL : ∀ c ∈ L, c.wf cfg = true) (hfit : storeOK cfg L = true) (h : parseRecords cfg r skip pos L = .ok M) :
    (∀ c ∈ M, c.wf cfg = true) ∧ storeOK cfg M = true := by
  fun_induction parseRecords cfg r skip pos L with
  | case1 => cases h; exact ⟨hL, hfit⟩
  | case2 _ _ _ _ _ ih => exact ih hL hfit h
  | case3 => cases h
  | case4 => cases h
  | case5 => cases h
  | case6 pos L b rest rem hrem n hn c hparse hstore ih =>
    exact ih (List.forall_mem_append.mpr ⟨hL, by simpa using parseChunk_wf hparse⟩) hstore h
  | case7 => cases h

/-- A failure of ParsePng's loop is a pair R182 admits. -/
theorem parseRecords_fits {cfg : Params} {r : List Byte} {skip pos : Nat} {L : List Chunk} {f : ParseFailure}
    (h : parseRecords cfg r skip pos L = .error f) : ErrorFits f.code f.sub := by
  fun_induction parseRecords cfg r skip pos L with
  | case1 => cases h
  | case2 _ _ _ _ _ ih => exact ih h
  | case3 => cases h; exact errorFits_chunkParse (sub := .malformed) (by decide)
  | case4 => cases h; exact errorFits_chunkParse (sub := .malformed) (by decide)
  | case5 _ _ _ _ _ _ _ _ e hparse => cases h; exact errorFits_chunkParse (parseChunk_cause hparse)
  | case6 _ _ _ _ _ _ _ _ _ _ _ ih => exact ih h
  | case7 => cases h; exact errorFits_alone nofun nofun

theorem parsePng_ok {cfg : Params} {r : List Byte} {L : List Chunk} (h : parsePng cfg r = .ok L) :
    (∀ c ∈ L, c.wf cfg = true) ∧ storeOK cfg L = true := by
  unfold parsePng at h
  split at h
  · cases h
  · exact parseRecords_ok (by simp) (storeOK_iff.mpr (by simp)) h

theorem parsePng_fits {cfg : Params} {r : List Byte} {f : ParseFailure} (h : parsePng cfg r = .error f) :
    ErrorFits f.code f.sub := by
  unfold parsePng at h
  split at h
  · cases h; exact errorFits_alone nofun nofun
  · exact parseRecords_fits h

/-! ## One rule per shared operation -/

section
variable {s : State} {i : Instr}

theorem endsIn_finish {u : State} (hw : Writes s i u) : EndsIn s i (finish u) := by
  rintro t ⟨⟩; exact .finished hw

theorem endsIn_raise {e sub : ErrCode} {off : Nat} (h : ErrorFits e sub) : EndsIn s i (raise s e sub off) := by
  rintro t ⟨⟩; exact .raised off h

theorem endsIn_raise_alone {e : ErrCode} (h : e ≠ .success) (hcp : e ≠ .chunkParseFailure) : EndsIn s i (raise s e) :=
  endsIn_raise (errorFits_alone h hcp)

theorem endsIn_whenPending {k : Pending → Result} (hk : ∀ p, EndsIn s i (k p)) : EndsIn s i (whenPending s k) := by
  intro t h
  obtain ⟨p, -, h⟩ := whenPending_next h
  exact hk p t h

theorem endsIn_checkRange {p : Pending} {k : Result} (hk : EndsIn s i k) : EndsIn s i (checkRange s p k) := by
  intro t h
  rcases checkRange_next h with ⟨-, h⟩ | ⟨-, rfl⟩
  · exact hk t h
  · exact .raised 0 (errorFits_alone nofun nofun)

theorem endsIn_memRead {a n : Nat} {k : List Byte → Result} (hk : ∀ bytes, bytes.length = n → EndsIn s i (k bytes)) :
    EndsIn s i (memRead s a n k) := by
  intro t h
  obtain ⟨bytes, hlen, -, h⟩ := memRead_next h
  exact hk bytes hlen t h

theorem endsIn_needType {k : TypeBytes → Result} (hk : ∀ ty, s.ctype = some ty → EndsIn s i (k ty)) :
    EndsIn s i (needType s k) := by
  intro t h
  rcases needType_next h with ⟨ty, hty, h⟩ | ⟨-, rfl⟩
  · exact hk ty hty t h
  · exact .raised 0 (errorFits_alone nofun nofun)

theorem endsIn_needChunk {k : Chunk → Result} (hk : ∀ c, s.w = some c → EndsIn s i (k c)) :
    EndsIn s i (needChunk s k) := by
  intro t h
  rcases needChunk_next h with ⟨c, hc, h⟩ | ⟨-, rfl⟩
  · exact hk c hc t h
  · exact .raised 0 (errorFits_alone nofun nofun)

theorem endsIn_checkOutput {n : Nat} {k : Result} (hk : n ≤ s.cfg.obufSize → EndsIn s i k) :
    EndsIn s i (checkOutput s n k) := by
  intro t h
  rcases checkOutput_next h with ⟨hn, h⟩ | ⟨-, rfl⟩
  · exact hk hn t h
  · exact .raised 0 (errorFits_alone nofun nofun)

theorem endsIn_loadType {bytes : List Byte} (hi : i = .typeLoad ∨ i = .typeLoadText) :
    EndsIn s i (loadType s bytes) := by
  unfold loadType
  split
  · exact endsIn_raise_alone nofun nofun
  · next hty => exact endsIn_finish (.typeLoaded hi (chunkTypeOf_valid hty))

theorem endsIn_queryType {P : TypeBytes → Bool} (hi : writesOnlyResult i = true) : EndsIn s i (queryType s P) :=
  endsIn_needType fun _ _ => endsIn_finish (.result _ hi)

/-- A command that computes RESULT from W (R130, R131). -/
theorem endsIn_chunkResult {v : Chunk → Word} (hi : writesOnlyResult i = true) :
    EndsIn s i (whenPending s fun _ => needChunk s fun c => finish { s with result := v c }) :=
  endsIn_whenPending fun _ => endsIn_needChunk fun _ _ => endsIn_finish (.result _ hi)

end

/-- The wire form is 12 bytes longer than the data (R123). -/
theorem length_serialize (c : Chunk) : c.serialize.length = 12 + c.data.length := by
  simp [Chunk.serialize, be32, TypeBytes.bytes]; omega

/-! ## The commands that branch on a lookup or a parse -/

section
variable (s : State)

theorem endsIn_execChunkBuild : EndsIn s .chunkBuild (execChunkBuild s) := by
  refine endsIn_whenPending fun p => endsIn_needType fun ty hty => endsIn_checkRange ?_
  split
  · exact endsIn_raise_alone nofun nofun
  · exact endsIn_memRead fun d hd => endsIn_finish (.built hty (by omega))

theorem endsIn_execChunkParse : EndsIn s .chunkParse (execChunkParse s) := by
  refine endsIn_whenPending fun p => endsIn_checkRange (endsIn_memRead fun r _ => ?_)
  split
  · next he => exact endsIn_raise (errorFits_of_cause (parseChunk_cause he))
  · next hc => exact endsIn_finish (.parsed _ (parseChunk_wf hc))

theorem endsIn_execTypeLoadText : EndsIn s .typeLoadText (execTypeLoadText s) := by
  refine endsIn_whenPending fun p => endsIn_checkRange ?_
  split
  · exact endsIn_raise_alone nofun nofun
  · exact endsIn_memRead fun _ _ => endsIn_loadType (.inr rfl)

theorem endsIn_execChunkDataText : EndsIn s .chunkDataText (execChunkDataText s) := by
  refine endsIn_whenPending fun p => endsIn_needChunk fun c _ => ?_
  split
  · exact endsIn_checkOutput fun hlen => endsIn_finish (.dataText hlen)
  · exact endsIn_finish .noDataText

theorem endsIn_execPngParse : EndsIn s .pngParse (execPngParse s) := by
  refine endsIn_whenPending fun p => endsIn_checkRange (endsIn_memRead fun r _ => ?_)
  split
  · next hf => exact endsIn_raise (parsePng_fits hf)
  · next hL =>
    obtain ⟨hwf, hfit⟩ := parsePng_ok hL
    exact endsIn_finish (.stored _ hwf hfit)

theorem endsIn_execPngAppend : EndsIn s .pngAppend (execPngAppend s) := by
  refine endsIn_whenPending fun p => endsIn_needChunk fun c hc => ?_
  split
  · next hfit => exact endsIn_finish (.appended _ hc hfit)
  · exact endsIn_raise_alone nofun nofun

/-- The chunk a lookup copies is `some` chunk of the store. -/
theorem getElem?_findFirst {L : List Chunk} {ty : TypeBytes} {k : Nat} (h : findFirst L ty = some k) :
    ∃ c ∈ L, L[k]? = some c :=
  ⟨L[k]'(findFirst_lt h), List.getElem_mem _, List.getElem?_eq_getElem _⟩

theorem endsIn_execPngFind : EndsIn s .pngFind (execPngFind s) := by
  refine endsIn_whenPending fun p => ?_
  split
  · next k hk =>
    obtain ⟨c, hmem, hc⟩ := getElem?_findFirst hk
    exact endsIn_finish (hc ▸ .found _ hmem)
  · exact endsIn_finish (.notFound (.inl rfl))

theorem endsIn_execPngRemove : EndsIn s .pngRemove (execPngRemove s) := by
  refine endsIn_whenPending fun p => ?_
  split
  · next k hk =>
    obtain ⟨c, hmem, hc⟩ := getElem?_findFirst hk
    exact endsIn_finish (hc ▸ .removed k _ hmem)
  · exact endsIn_finish (.notFound (.inr rfl))

theorem endsIn_execPngGet : EndsIn s .pngGet (execPngGet s) := by
  refine endsIn_whenPending fun p => ?_
  split
  · exact endsIn_raise_alone nofun nofun
  · next hc => exact endsIn_finish (.got (List.mem_of_getElem? hc))

theorem endsIn_execIllegal (i : Instr) : EndsIn s i (execIllegal s) :=
  endsIn_whenPending fun _ => endsIn_raise_alone nofun nofun

/-- Every command ends by `raise` or by `finish` on one of the writes listed for it. -/
theorem endsIn_exec (i : Instr) : EndsIn s i (exec i s) := by
  cases i with
  | nop => exact endsIn_whenPending fun _ => endsIn_finish .nothing
  | crcInit => exact endsIn_whenPending fun _ => endsIn_finish (.crc _ (.inl rfl))
  | crcByte imm => exact endsIn_whenPending fun _ => endsIn_finish (.crc _ (.inr (.inl ⟨imm, rfl⟩)))
  | crcBuf =>
    exact endsIn_whenPending fun _ => endsIn_checkRange <| endsIn_memRead fun _ _ =>
      endsIn_finish (.crc _ (.inr (.inr rfl)))
  | crcFinal => exact endsIn_whenPending fun _ => endsIn_finish (.result _ rfl)
  | crcChecksum =>
    exact endsIn_whenPending fun _ => endsIn_checkRange <| endsIn_memRead fun _ _ => endsIn_finish (.result _ rfl)
  | crcTable imm => exact endsIn_whenPending fun _ => endsIn_finish (.result _ rfl)
  | typeLoad => exact endsIn_whenPending fun _ => endsIn_loadType (.inl rfl)
  | typeLoadText => exact endsIn_execTypeLoadText s
  | typeIsCritical => exact endsIn_whenPending fun _ => endsIn_queryType rfl
  | typeIsPublic => exact endsIn_whenPending fun _ => endsIn_queryType rfl
  | typeIsReservedValid => exact endsIn_whenPending fun _ => endsIn_queryType rfl
  | typeIsSafeToCopy => exact endsIn_whenPending fun _ => endsIn_queryType rfl
  | typeIsValid => exact endsIn_whenPending fun _ => endsIn_queryType rfl
  | typeBytes => exact endsIn_whenPending fun _ => endsIn_needType fun _ _ => endsIn_finish (.result _ rfl)
  | typeText => exact endsIn_whenPending fun _ => endsIn_needType fun ty _ => endsIn_finish (.typeText ty)
  | chunkBuild => exact endsIn_execChunkBuild s
  | chunkParse => exact endsIn_execChunkParse s
  | chunkLength => exact endsIn_chunkResult rfl
  | chunkCrc => exact endsIn_chunkResult rfl
  | chunkType => exact endsIn_whenPending fun _ => endsIn_needChunk fun _ hc => endsIn_finish (.typeOfChunk _ hc)
  | chunkTypeText => exact endsIn_whenPending fun _ => endsIn_needChunk fun c _ => endsIn_finish (.chunkTypeText c.type)
  | chunkDataText => exact endsIn_execChunkDataText s
  | chunkSerialize =>
    exact endsIn_whenPending fun _ => endsIn_needChunk fun c _ => endsIn_checkOutput fun hlen =>
      endsIn_finish (.serialized (.inl rfl) (length_serialize c ▸ hlen))
  | pngParse => exact endsIn_execPngParse s
  | pngAppend => exact endsIn_execPngAppend s
  | pngFind => exact endsIn_execPngFind s
  | pngRemove => exact endsIn_execPngRemove s
  | pngCount => exact endsIn_whenPending fun _ => endsIn_finish (.result _ rfl)
  | pngGet => exact endsIn_execPngGet s
  | pngSerialize =>
    exact endsIn_whenPending fun _ => endsIn_checkOutput fun hlen => endsIn_finish (.serialized (.inr rfl) hlen)
  | errClear => exact endsIn_whenPending fun _ => endsIn_finish .cleared

/-- Every word the engine executes, a command's or an illegal one, ends so. -/
theorem executeWord_ends {s t : State} {cw : Word} (h : executeWord s cw = .next t) :
    ∃ i, Ends s i t ∧ (i = .errClear → decode cw = .command .errClear) := by
  rcases executeWord_cases s cw with ⟨i, hi, he⟩ | ⟨-, -, he⟩ <;> rw [he] at h
  · exact ⟨i, endsIn_exec s i t h, fun hc => hc ▸ hi⟩
  · exact ⟨.nop, endsIn_execIllegal s .nop t h, nofun⟩

end

/-! ## Which commands write each piece of state, on the success path -/

section
variable {s u : State} {i : Instr}

/-- The state no command writes: the argument registers, IBUF, the reset input and the model's own fields. -/
structure Frame (s t : State) : Prop where
  argAddr : t.argAddr = s.argAddr
  argLen : t.argLen = s.argLen
  argType : t.argType = s.argType
  argIndex : t.argIndex = s.argIndex
  resetIn : t.resetIn = s.resetIn
  cfg : t.cfg = s.cfg
  events : t.events = s.events
  reads : t.reads = s.reads
  draws : t.draws = s.draws
  ibuf : t.ibuf = s.ibuf

theorem writes_frame (hw : Writes s i u) : Frame s u.finished := by cases hw <;> constructor <;> rfl

theorem writes_output (hw : Writes s i u) :
    (u.outLen = s.outLen ∧ u.obuf = s.obuf) ∨
      i ∈ [Instr.typeText, .chunkTypeText, .chunkDataText, .chunkSerialize, .pngSerialize] := by
  cases hw with
  | typeText | chunkTypeText | dataText | noDataText => simp
  | serialized hi => rcases hi with rfl | rfl <;> simp
  | _ => exact .inl ⟨rfl, rfl⟩

theorem writes_crc (hw : Writes s i u) : u.crc = s.crc ∨ i = .crcInit ∨ (∃ b, i = .crcByte b) ∨ i = .crcBuf := by
  cases hw with
  | crc v hi => exact .inr hi
  | _ => exact .inl rfl

theorem writes_found (hw : Writes s i u) : u.found = s.found ∨ i = .pngFind ∨ i = .pngRemove := by
  cases hw with
  | found => simp
  | removed => simp
  | notFound hi => exact .inr hi
  | _ => exact .inl rfl

theorem writes_ctype (hw : Writes s i u) : u.ctype = s.ctype ∨ i ∈ [Instr.typeLoad, .typeLoadText, .chunkType] := by
  cases hw with
  | typeLoaded hi => rcases hi with rfl | rfl <;> simp
  | typeOfChunk => simp
  | _ => exact .inl rfl

theorem writes_w (hw : Writes s i u) :
    u.w = s.w ∨ i ∈ [Instr.chunkBuild, .chunkParse, .pngFind, .pngRemove, .pngGet, .pngAppend] := by
  cases hw with
  | built | parsed | found | removed | got | appended => simp
  | _ => exact .inl rfl

/-- Only PNG_APPEND empties W. -/
theorem writes_w_none (hw : Writes s i u) : u.w = s.w ∨ u.w ≠ none ∨ i = .pngAppend := by
  cases hw with
  | built | parsed | found | removed | got | appended => simp
  | _ => exact .inl rfl

theorem writes_store (hw : Writes s i u) : u.store = s.store ∨ i ∈ [Instr.pngParse, .pngAppend, .pngRemove] := by
  cases hw with
  | stored | appended | removed => simp
  | _ => exact .inl rfl

/-- The error record is cleared by ERR_CLEAR and kept by every other successful command (R171, R184). -/
theorem writes_errorRecord (hw : Writes s i u) :
    (u.sticky = s.sticky ∧ u.overrun = s.overrun ∧ u.errOffset = s.errOffset) ∨
      (i = .errClear ∧ u.sticky = false ∧ u.overrun = false ∧ u.errOffset = 0) := by
  cases hw with
  | cleared => exact .inr ⟨rfl, rfl, rfl, rfl⟩
  | _ => exact .inl ⟨rfl, rfl, rfl⟩

/-- The commands whose success path leaves RESULT as it is. -/
def keepsResult : List Instr :=
  [.nop, .crcInit, .crcBuf, .typeLoad, .typeLoadText, .typeText, .chunkBuild, .chunkSerialize, .pngGet, .pngSerialize,
    .errClear]

theorem writes_result (hw : Writes s i u) (hi : i ∈ keepsResult ∨ ∃ b, i = .crcByte b) : u.result = s.result := by
  have keepers : ∀ j ∈ keepsResult, writesOnlyResult j = false := by decide
  cases hw with
  | result v hres =>
    rcases hi with hi | ⟨b, rfl⟩
    · rw [keepers i hi] at hres; cases hres
    · cases hres
  | notFound hnot => rcases hnot with rfl | rfl <;> simp [keepsResult] at hi
  | typeOfChunk | chunkTypeText | dataText | noDataText | parsed | stored | appended | found | removed =>
    simp [keepsResult] at hi
  | _ => rfl

end

end Sys2Proof.Proofs
end

section
namespace Sys2Proof.Proofs

open Sys2Proof.Machine Sys2Proof.Claims Sys2Proof.Laws

/-! ## What a host access can do -/

section
variable {s t : State}

theorem regAdmits_iff {off width : Nat} : regAdmits off width = true ↔ width = 32 ∧ off % 4 = 0 ∧ off < 0x100 := by
  simp [regAdmits, and_assoc]

/-- `t` is `s` but for what the host has read and the count of draws. -/
def ReadsOnly (s t : State) : Prop := ∃ rds n, t = { s with reads := rds, draws := n }

theorem readsOnly_deliver (s : State) (v : ReadValue) : ReadsOnly s (s.deliver v) := ⟨_, _, rfl⟩

theorem readsOnly_deliverDraw (s : State) (f : Word → ReadValue) : ReadsOnly s (s.deliverDraw f) := ⟨_, _, rfl⟩

theorem readsOnly_readDrawn (s : State) (v : Word) : ReadsOnly s (readDrawn s v) := by
  unfold readDrawn
  split
  · exact readsOnly_deliverDraw s _
  · exact readsOnly_deliver s _

theorem readsOnly_readReg (s : State) (r : Reg) : ReadsOnly s (readReg s r) := by
  cases r with
  | status =>
    simp only [readReg]
    split
    · exact readsOnly_deliverDraw s _
    · exact readsOnly_deliver s _
  | result | crc | outLen | errOffset => exact readsOnly_readDrawn s _
  | cmd | argAddr | argLen | argType | argIndex | id | reserved => exact readsOnly_deliver s _

theorem readCell_next {m : Memory} {a : Nat} (h : readCell s m a = .next t) : ReadsOnly s t := by
  unfold readCell at h
  split at h
  · cases h
  · cases h; exact readsOnly_deliver s _

theorem hostRead_next {sp : Space} {off width : Nat} (h : hostRead s sp off width = .next t) : ReadsOnly s t := by
  cases sp with
  | reg =>
    simp only [hostRead] at h
    split at h
    · cases h; exact readsOnly_readReg s _
    · cases h
  | ibuf =>
    simp only [hostRead] at h
    split at h
    · exact readCell_next h
    · cases h
  | obuf =>
    simp only [hostRead] at h
    split at h
    · split at h
      · cases h; exact readsOnly_deliverDraw s _
      · exact readCell_next h
    · cases h

/-- The cases of a host write that answers a next state: an admitted register write, or an IBUF cell inside the space. -/
theorem hostWrite_next {sp : Space} {off width : Nat} {v : Word} (h : hostWrite s sp off width v = .next t) :
    (sp = .reg ∧ regAdmits off width = true ∧ t = writeReg s (regAt off) v) ∨
      (off < s.cfg.ibufSize ∧ t = { s with ibuf := s.ibuf.write off (v.setWidth 8) }) := by
  cases sp with
  | reg =>
    simp only [hostWrite] at h
    split at h
    · next hadm => cases h; exact .inl ⟨rfl, hadm, rfl⟩
    · cases h
  | ibuf =>
    simp only [hostWrite] at h
    split at h
    · next hadm =>
      simp only [bufAdmits, Bool.and_eq_true, decide_eq_true_eq] at hadm
      split at h
      · cases h
      · cases h; exact .inr ⟨hadm.2, rfl⟩
    · cases h
  | obuf => cases h

/-- The cases of a host access that answers a next state: the reset input is released, and the access is a read, a register
write or an IBUF write. -/
theorem hostAccess_next {a : Access} (h : hostAccess s a = .next t) :
    s.resetIn = false ∧
      (ReadsOnly s t ∨
        (∃ off width v, a = .write .reg off width v ∧ regAdmits off width = true ∧ t = writeReg s (regAt off) v) ∨
        ∃ off b, off < s.cfg.ibufSize ∧ t = { s with ibuf := s.ibuf.write off b }) := by
  unfold hostAccess at h
  split at h
  · cases h
  · refine ⟨by simpa using ‹¬ s.resetIn = true›, ?_⟩
    cases a with
    | read sp off width => exact .inl (hostRead_next h)
    | write sp off width v =>
      rcases hostWrite_next h with ⟨rfl, hadm, rfl⟩ | ⟨hoff, rfl⟩
      · exact .inr (.inl ⟨off, width, v, rfl, hadm, rfl⟩)
      · exact .inr (.inr ⟨off, _, hoff, rfl⟩)

end

/-! ## The invariant: every step keeps it -/

section
variable {s t u : State} {i : Instr}

/-- The events to come, the reads and the count of draws are not the block's, and the invariant does not see them. -/
theorem inv_of_bookkeeping (h : s.Inv) (evs : List Event) (rds : List ReadValue) (n : Nat) :
    State.Inv { s with events := evs, reads := rds, draws := n } :=
  { h with
    resetHeld := fun hr => congrArg (fun x : State => { x with events := evs, reads := rds, draws := n }) (h.resetHeld hr) }

/-- The reset state meets the invariant, with the reset input at either level. -/
theorem resetBlock_inv (s : State) (hok : s.cfg.ok = true) : s.resetBlock.Inv where
  cfgOk := hok
  busyPend := rfl
  busyNotDone := nofun
  ctypeValid := nofun
  workValid := nofun
  storeValid := nofun
  storeFits := storeOK_iff.mpr ⟨Nat.zero_le _, Nat.zero_le _⟩
  suberrCause := by simp
  errSticky := fun h => absurd rfl h
  ibufWf := .nil
  ibufWithin := nofun
  obufWf := .nil
  obufWithin := nofun
  outWritten := nofun
  resetHeld := fun _ => rfl

/-- With the reset input released, a state need not be the reset state. -/
theorem held_of_released (hr : s.resetIn = false) : s.resetIn = true → s.resetBlock = s := by simp [hr]

theorem raised_inv (h : s.Inv) (hr : s.resetIn = false) {e sub : ErrCode} (off : Nat) (hfits : ErrorFits e sub) :
    (s.raised e sub off).Inv :=
  { h with
    busyPend := rfl
    busyNotDone := nofun
    suberrCause := hfits.2
    errSticky := fun _ => rfl
    resetHeld := held_of_released hr }

theorem finished_inv (h : s.Inv) (hr : s.resetIn = false) : s.finished.Inv :=
  { h with
    busyPend := rfl
    busyNotDone := nofun
    suberrCause := by simp
    errSticky := fun he => absurd rfl he
    resetHeld := held_of_released hr }

/-- MemWrite inside OBUF keeps the invariant, and OUT_LEN then counts written cells (R30, R48). -/
theorem output_inv (h : s.Inv) (hr : s.resetIn = false) {bytes : List Byte} (hlen : bytes.length ≤ s.cfg.obufSize) :
    (s.output bytes).Inv :=
  { h with
    obufWf := writeRange_wf bytes h.obufWf 0
    obufWithin := writeRange_within bytes h.obufWithin (by simpa using hlen)
    outWritten := fun a ha => by
      have ha' : a < bytes.length := lt_of_lt_of_le ha (by simpa using Nat.mod_le _ _)
      rw [read_output, if_pos ha']
      simpa using ha'
    resetHeld := held_of_released hr }

/-- OBUF holds at least the four bytes of a chunk type (R5, R113). -/
theorem length_typeBytes_le (hok : s.cfg.ok = true) (ty : TypeBytes) : ty.bytes.length ≤ s.cfg.obufSize := by
  simp only [Params.ok, Bool.and_eq_true, decide_eq_true_eq] at hok
  simp only [TypeBytes.bytes, List.length_cons, List.length_nil]
  omega

/-- Taking chunks out of a list keeps it in the limits of StoreOK (R151). -/
theorem storeOK_of_sublist {cfg : Params} {L M : List Chunk} (hsub : M.Sublist L) (h : storeOK cfg L = true) :
    storeOK cfg M = true := by
  obtain ⟨hlen, hbytes⟩ := storeOK_iff.mp h
  have hsum : storedBytes M ≤ storedBytes L := (hsub.map _).sum_le_sum fun _ _ => Nat.zero_le _
  exact storeOK_iff.mpr ⟨hsub.length_le.trans hlen, hsum.trans hbytes⟩

theorem removeAt_sublist (L : List Chunk) (k : Nat) : (removeAt L k).Sublist L := by
  rw [removeAt, ← List.eraseIdx_eq_take_drop_succ]
  exact List.eraseIdx_sublist L k

/-- A successful end keeps the invariant, whatever the command. The writes are seen on the finished state, where ERR is
success, so that ERR_CLEAR may clear STICKY. -/
theorem writes_inv (h : s.Inv) (hr : s.resetIn = false) (hw : Writes s i u) : u.finished.Inv := by
  have hf := finished_inv h hr
  cases hw with
  | nothing => exact hf
  | crc => exact { hf with resetHeld := held_of_released hr }
  | result => exact { hf with resetHeld := held_of_released hr }
  | notFound => exact { hf with resetHeld := held_of_released hr }
  | typeLoaded hi hty =>
    exact { hf with ctypeValid := by rintro _ ⟨⟩; exact hty, resetHeld := held_of_released hr }
  | typeOfChunk v hc =>
    have hty := (Bool.and_eq_true_iff.mp (h.workValid _ hc)).1
    exact { hf with ctypeValid := by rintro _ ⟨⟩; exact hty, resetHeld := held_of_released hr }
  | typeText ty => exact output_inv hf hr (length_typeBytes_le h.cfgOk ty)
  | chunkTypeText ty =>
    exact { output_inv hf hr (length_typeBytes_le h.cfgOk ty) with resetHeld := held_of_released hr }
  | dataText hlen => exact { output_inv hf hr hlen with resetHeld := held_of_released hr }
  | noDataText => exact { hf with outWritten := nofun, resetHeld := held_of_released hr }
  | serialized hi hlen => exact output_inv hf hr hlen
  | built hty hd =>
    exact { hf with
      workValid := by rintro _ ⟨⟩; simp [Chunk.wf, h.ctypeValid _ hty, hd]
      resetHeld := held_of_released hr }
  | parsed v hc => exact { hf with workValid := by rintro _ ⟨⟩; exact hc, resetHeld := held_of_released hr }
  | found v hc =>
    exact { hf with workValid := by rintro _ ⟨⟩; exact h.storeValid _ hc, resetHeld := held_of_released hr }
  | got hc =>
    exact { hf with workValid := by rintro _ ⟨⟩; exact h.storeValid _ hc, resetHeld := held_of_released hr }
  | stored v hL hfit => exact { hf with storeValid := hL, storeFits := hfit, resetHeld := held_of_released hr }
  | appended v hc hfit =>
    exact { hf with
      workValid := nofun
      storeValid := List.forall_mem_append.mpr ⟨h.storeValid, by simpa using h.workValid _ hc⟩
      storeFits := hfit
      resetHeld := held_of_released hr }
  | removed k v hc =>
    exact { hf with
      workValid := by rintro _ ⟨⟩; exact h.storeValid _ hc
      storeValid := fun c hmem => h.storeValid c ((removeAt_sublist _ k).subset hmem)
      storeFits := storeOK_of_sublist (removeAt_sublist _ k) h.storeFits
      resetHeld := held_of_released hr }
  | cleared => exact { hf with errSticky := fun he => absurd rfl he, resetHeld := held_of_released hr }

/-- What a step keeps: the invariant and the parameters. -/
def Keeps (s t : State) : Prop := t.Inv ∧ t.cfg = s.cfg

theorem ends_keeps (h : s.Inv) (hr : s.resetIn = false) (he : Ends s i t) : Keeps s t := by
  cases he with
  | raised off hfits => exact ⟨raised_inv h hr off hfits, rfl⟩
  | finished hw => exact ⟨writes_inv h hr hw, (writes_frame hw).cfg⟩

theorem engineTurn_keeps (h : s.Inv) (ht : engineTurn s = .next t) : Keeps s t := by
  rcases engineTurn_next ht with ⟨-, rfl⟩ | ⟨-, -, rfl⟩ | ⟨hr, p, -, hx⟩
  · exact ⟨resetBlock_inv s h.cfgOk, rfl⟩
  · exact ⟨h, rfl⟩
  · obtain ⟨i, he, -⟩ := executeWord_ends hx
    exact ends_keeps h hr he

theorem issueCommand_inv (h : s.Inv) (hr : s.resetIn = false) (v : Word) : (issueCommand s v).Inv := by
  unfold issueCommand
  split
  · exact { h with resetHeld := held_of_released hr }
  · exact { h with busyPend := rfl, busyNotDone := fun _ => rfl, resetHeld := held_of_released hr }

theorem writeReg_inv (h : s.Inv) (hr : s.resetIn = false) (r : Reg) (v : Word) : (writeReg s r v).Inv := by
  cases r with
  | cmd => exact issueCommand_inv h hr v
  | argAddr | argLen | argType | argIndex => exact { h with resetHeld := held_of_released hr }
  | status | result | crc | outLen | errOffset | id | reserved => exact h

theorem writeReg_cfg (s : State) (r : Reg) (v : Word) : (writeReg s r v).cfg = s.cfg := by
  cases r with
  | cmd => simp only [writeReg, issueCommand]; split <;> rfl
  | _ => rfl

theorem hostAccess_keeps (h : s.Inv) {a : Access} (ht : hostAccess s a = .next t) : Keeps s t := by
  obtain ⟨hr, ⟨rds, n, rfl⟩ | ⟨off, _, v, -, -, rfl⟩ | ⟨off, b, hoff, rfl⟩⟩ := hostAccess_next ht
  · exact ⟨inv_of_bookkeeping h s.events rds n, rfl⟩
  · exact ⟨writeReg_inv h hr (regAt off) v, writeReg_cfg s (regAt off) v⟩
  · refine ⟨{ h with ibufWf := ?_, ibufWithin := ?_, resetHeld := held_of_released hr }, rfl⟩
    · exact write_wf h.ibufWf off b
    · exact write_within h.ibufWithin hoff b

theorem resetReleased_keeps (h : s.Inv) : Keeps s (resetReleased s) := by
  unfold resetReleased
  split
  · exact ⟨resetBlock_inv { s with resetIn := false } h.cfgOk, rfl⟩
  · exact ⟨h, rfl⟩

theorem step_keeps (h : s.Inv) (ht : step s = .next t) : Keeps s t := by
  have taken (rest : List Event) : State.Inv { s with events := rest } := inv_of_bookkeeping h rest s.reads s.draws
  obtain ⟨-, ⟨-, ht⟩ | ⟨rest, -, ht⟩ | ⟨a, rest, -, ht⟩ | ⟨rest, -, rfl⟩ | ⟨rest, -, rfl⟩⟩ := step_next ht
  · exact engineTurn_keeps h ht
  · exact (engineTurn_keeps (taken rest) ht :)
  · exact (hostAccess_keeps (taken rest) ht :)
  · exact ⟨resetBlock_inv { s with events := rest, resetIn := true } h.cfgOk, rfl⟩
  · exact resetReleased_keeps (taken rest)

end

/-- Settles O57: by the cases of a step, and for an execute step by the two ends of a command. -/
theorem everyStepKeepsTheInvariant : Obligations.EveryStepKeepsTheInvariant := by
  unfold Obligations.EveryStepKeepsTheInvariant
  exact fun _ _ h ht => step_keeps h ht

end Sys2Proof.Proofs
end

section
namespace Sys2Proof.Proofs

open Sys2Proof.Machine Sys2Proof.Claims Sys2Proof.Laws

/-! ## Which commands write each piece of state -/

/-- Settles O53: a command that raises writes the error record alone; for one that finishes, each clause is the lemma of
its piece of state. -/
theorem writersOfEachState : Obligations.WritersOfEachState := by
  unfold Obligations.WritersOfEachState
  intro i s t h
  cases endsIn_exec s i t h with
  | raised off _ =>
    exact ⟨⟨rfl, rfl, rfl, rfl, rfl, rfl, rfl, rfl, rfl⟩, fun _ => rfl, fun _ => ⟨rfl, fun _ => rfl⟩,
      fun hne => absurd rfl hne, fun hne => absurd rfl hne, fun hne => absurd rfl hne, fun hne => absurd rfl hne,
      fun hnone hsome => absurd hnone hsome, fun hne => absurd rfl hne, fun hne => absurd rfl hne, fun _ => rfl⟩
  | @finished u hw =>
    have hf := writes_frame hw
    refine ⟨⟨hf.argAddr, hf.argLen, hf.argType, hf.argIndex, hf.resetIn, hf.cfg, hf.events, hf.reads, hf.draws⟩,
      fun a => by rw [hf.ibuf], fun hi => ?_, (writes_crc hw).resolve_left, (writes_found hw).resolve_left,
      (writes_ctype hw).resolve_left, (writes_w hw).resolve_left, fun hnone hsome => ?_,
      (writes_store hw).resolve_left, fun hne => ?_, fun hi => (writes_result hw hi :)⟩
    · obtain ⟨hlen, hobuf⟩ := (writes_output hw).resolve_right hi
      exact ⟨hlen, fun a => congrArg (Memory.read · a) hobuf⟩
    · rcases writes_w_none hw with hsame | hsome' | happend
      · exact absurd (hsame.symm.trans hnone) hsome
      · exact absurd hnone hsome'
      · exact happend
    · rcases writes_errorRecord hw with ⟨-, hover, -⟩ | ⟨hi, -⟩
      · exact absurd hover hne
      · exact hi

/-! ## What sets and what clears STICKY and OVERRUN -/

section
variable {s t : State}

theorem opcode_of_errClear {opc imm : Byte} (h : instrOfOpcode opc imm = some .errClear) : opc = 0x3F := by
  unfold instrOfOpcode at h
  split at h <;> cases h
  next hopc => exact BitVec.eq_of_toNat_eq hopc

/-- One word alone decodes to ERR_CLEAR: its OPC is 0x3F and, in class N, its IMM and RSV are 0 (R66, R67). -/
theorem word_of_errClear {cw : Word} (h : decode cw = .command .errClear) : cw = 0x0000003F := by
  simp only [decode] at h
  split at h
  · cases h
  · next hrsv =>
    split at h
    · cases h
    · next i hi =>
      split at h
      · cases h
      · next himm =>
        cases h
        have hopc := opcode_of_errClear hi
        have himm : (fieldsOfWord cw).imm = 0 := by simpa [hopc, formatOfOpcode] using himm
        have hfields : fieldsOfWord cw = ⟨0x3F, 0, 0⟩ := by
          rw [← hopc, ← himm, ← not_not.mp hrsv]
        rw [← wordOfFields_fieldsOfWord cw, hfields]
        rfl

/-- What a step does to STICKY and OVERRUN. -/
inductive ErrorBits (s t : State) : Prop
  | kept (hsticky : t.sticky = s.sticky) (hoverrun : t.overrun = s.overrun)
  | cleared (hwhy : clearsErrors s) (hsticky : t.sticky = false) (hoverrun : t.overrun = false)
  | failed (hpend : s.pend ≠ none) (herr : t.err ≠ .success) (hdone : t.done = true)
      (hsticky : t.sticky = true) (hoverrun : t.overrun = s.overrun)
  | dropped (hbusy : s.busy = true) (hev : ∃ v rest, s.events = cmdWrite v :: rest) (hsticky : t.sticky = s.sticky)
      (hoverrun : t.overrun = true)

theorem engineTurn_errorBits {evs : List Event} (hturn : s.events = [] ∨ ∃ rest, s.events = .engine :: rest)
    (h : engineTurn { s with events := evs } = .next t) : ErrorBits s t := by
  rcases engineTurn_next h with ⟨hr, rfl⟩ | ⟨-, -, rfl⟩ | ⟨-, p, hp, hx⟩
  · exact .cleared (.inl hr) rfl rfl
  · exact .kept rfl rfl
  · obtain ⟨i, he, hi⟩ := executeWord_ends hx
    cases he with
    | raised off hfits => exact .failed (by simp [show s.pend = some p from hp]) hfits.1 rfl rfl rfl
    | finished hw =>
      rcases writes_errorRecord hw with ⟨hs, ho, -⟩ | ⟨rfl, hs, ho, -⟩
      · exact .kept hs ho
      · exact .cleared (.inr (.inr ⟨hturn, p, hp, word_of_errClear (hi rfl)⟩)) hs ho

/-- CMD is the register at offset 0 and at no other. -/
theorem regAt_cmd {off : Nat} (h : regAt off = .cmd) : off = 0 := by
  unfold regAt at h
  split at h
  · rfl
  all_goals cases h

theorem writeReg_errorBits {off width : Nat} {v : Word} {rest : List Event}
    (hev : s.events = .host (.write .reg off width v) :: rest) (hadm : regAdmits off width = true) :
    ErrorBits s (writeReg { s with events := rest } (regAt off) v) := by
  cases hreg : regAt off with
  | cmd =>
    simp only [writeReg, issueCommand]
    split
    · next hbusy =>
      obtain ⟨rfl, -⟩ := regAdmits_iff.mp hadm
      obtain rfl := regAt_cmd hreg
      exact .dropped hbusy ⟨v, rest, hev⟩ rfl rfl
    · exact .kept rfl rfl
  | _ => exact .kept rfl rfl

theorem step_errorBits (h : step s = .next t) : ErrorBits s t := by
  obtain ⟨-, ⟨hev, ht⟩ | ⟨rest, hev, ht⟩ | ⟨a, rest, hev, ht⟩ | ⟨rest, hev, rfl⟩ | ⟨rest, hev, rfl⟩⟩ := step_next h
  · exact engineTurn_errorBits (evs := s.events) (.inl hev) ht
  · exact engineTurn_errorBits (.inr ⟨rest, hev⟩) ht
  · obtain ⟨-, ⟨_, _, rfl⟩ | ⟨off, width, v, rfl, hadm, rfl⟩ | ⟨_, _, -, rfl⟩⟩ := hostAccess_next ht
    · exact .kept rfl rfl
    · exact writeReg_errorBits hev hadm
    · exact .kept rfl rfl
  · exact .cleared (.inr (.inl ⟨rest, hev⟩)) rfl rfl
  · unfold resetReleased
    split
    · next hr => exact .cleared (.inl hr) rfl rfl
    · exact .kept rfl rfl

end

/-- Settles O54: by the four things a step may do to the two bits. -/
theorem stickyAndOverrunHistory : Obligations.StickyAndOverrunHistory := by
  unfold Obligations.StickyAndOverrunHistory
  intro s t h
  cases step_errorBits h with
  | kept hsticky hoverrun => simp_all
  | cleared hwhy hsticky hoverrun => simp_all
  | failed hpend herr hdone hsticky hoverrun => simp_all
  | dropped hbusy hev hsticky hoverrun => simp_all

end Sys2Proof.Proofs
end

section
namespace Sys2Proof.Proofs

open Sys2Proof.Machine Sys2Proof.Claims Sys2Proof.Laws

/-! ## No command outside the four CRC commands looks at the CRC register -/

/-- `s` with another value in the CRC register. -/
def withCrc (v : Word) (s : State) : State := { s with crc := v }

theorem withCrc_cfg (v : Word) (s : State) : (withCrc v s).cfg = s.cfg := rfl

theorem withCrc_store (v : Word) (s : State) : (withCrc v s).store = s.store := rfl

/-- `Alike v r r'`: the outcome `r'` is `r` with `v` in the CRC register of its next state. -/
def Alike (v : Word) (r r' : Result) : Prop := r' = mapNext (withCrc v) r

section
variable {s : State} {v : Word}

theorem alike_ite {c : Prop} [Decidable c] {k k' l l' : Result} (hk : Alike v k k') (hl : Alike v l l') :
    Alike v (if c then k else l) (if c then k' else l') := by
  split
  · exact hk
  · exact hl

theorem alike_whenPending {k k' : Pending → Result} (hk : ∀ p, Alike v (k p) (k' p)) :
    Alike v (whenPending s k) (whenPending (withCrc v s) k') := by
  cases h : s.pend with
  | none => simp [whenPending, withCrc, h, Alike, mapNext]
  | some p => rw [whenPending_some h, whenPending_some (s := withCrc v s) h]; exact hk p

theorem alike_checkRange {p : Pending} {k k' : Result} (hk : Alike v k k') :
    Alike v (checkRange s p k) (checkRange (withCrc v s) p k') := by
  rcases Nat.lt_or_ge s.cfg.ibufSize (p.addr.toNat + p.len.toNat) with h | h
  · rw [checkRange_of_gt h, checkRange_of_gt (s := withCrc v s) h]; rfl
  · rwa [checkRange_of_le h, checkRange_of_le (s := withCrc v s) h]

theorem alike_memRead {a n : Nat} {k k' : List Byte → Result} (hk : ∀ bytes, Alike v (k bytes) (k' bytes)) :
    Alike v (memRead s a n k) (memRead (withCrc v s) a n k') := by
  unfold memRead
  cases h : Memory.readRange s.ibuf a n with
  | none => simp [withCrc, h, Alike, mapNext]
  | some bytes => simpa [withCrc, h] using hk bytes

theorem alike_needType {k k' : TypeBytes → Result} (hk : ∀ ty, Alike v (k ty) (k' ty)) :
    Alike v (needType s k) (needType (withCrc v s) k') := by
  cases h : s.ctype with
  | none => rw [needType_none h, needType_none (s := withCrc v s) h]; rfl
  | some ty => rw [needType_some h, needType_some (s := withCrc v s) h]; exact hk ty

theorem alike_needChunk {k k' : Chunk → Result} (hk : ∀ c, Alike v (k c) (k' c)) :
    Alike v (needChunk s k) (needChunk (withCrc v s) k') := by
  cases h : s.w with
  | none => rw [needChunk_none h, needChunk_none (s := withCrc v s) h]; rfl
  | some c => rw [needChunk_some h, needChunk_some (s := withCrc v s) h]; exact hk c

theorem alike_checkOutput {n : Nat} {k k' : Result} (hk : Alike v k k') :
    Alike v (checkOutput s n k) (checkOutput (withCrc v s) n k') := by
  rcases Nat.lt_or_ge s.cfg.obufSize n with h | h
  · rw [checkOutput_of_gt h, checkOutput_of_gt (s := withCrc v s) h]; rfl
  · rwa [checkOutput_of_le h, checkOutput_of_le (s := withCrc v s) h]

theorem alike_loadType (bytes : List Byte) : Alike v (loadType s bytes) (loadType (withCrc v s) bytes) := by
  unfold loadType
  split <;> rfl

theorem alike_queryType (P : TypeBytes → Bool) :
    Alike v (whenPending s fun _ => queryType s P)
      (whenPending (withCrc v s) fun _ => queryType (withCrc v s) P) :=
  alike_whenPending fun _ => alike_needType fun _ => rfl

theorem alike_exec {i : Instr} (h₁ : i ≠ .crcInit) (h₂ : ∀ b, i ≠ .crcByte b) (h₃ : i ≠ .crcBuf) (h₄ : i ≠ .crcFinal) :
    Alike v (exec i s) (exec i (withCrc v s)) := by
  cases i with
  | crcInit => exact absurd rfl h₁
  | crcByte b => exact absurd rfl (h₂ b)
  | crcBuf => exact absurd rfl h₃
  | crcFinal => exact absurd rfl h₄
  | nop | errClear | crcTable | pngCount => exact alike_whenPending fun _ => rfl
  | crcChecksum => exact alike_whenPending fun _ => alike_checkRange <| alike_memRead fun _ => rfl
  | typeLoad => exact alike_whenPending fun p => alike_loadType _
  | typeLoadText =>
    exact alike_whenPending fun p => alike_checkRange <|
      alike_ite rfl <| alike_memRead fun bytes => alike_loadType bytes
  | typeIsCritical | typeIsPublic | typeIsReservedValid | typeIsSafeToCopy | typeIsValid => exact alike_queryType _
  | typeBytes | typeText => exact alike_whenPending fun _ => alike_needType fun _ => rfl
  | chunkLength | chunkCrc | chunkType | chunkTypeText => exact alike_whenPending fun _ => alike_needChunk fun _ => rfl
  | chunkSerialize => exact alike_whenPending fun _ => alike_needChunk fun _ => alike_checkOutput rfl
  | pngSerialize => exact alike_whenPending fun _ => alike_checkOutput rfl
  | chunkBuild =>
    exact alike_whenPending fun p => alike_needType fun ty => alike_checkRange <|
      alike_ite rfl <| alike_memRead fun _ => rfl
  | chunkDataText =>
    exact alike_whenPending fun p => alike_needChunk fun c => alike_ite (alike_checkOutput rfl) rfl
  | pngAppend => exact alike_whenPending fun p => alike_needChunk fun c => alike_ite rfl rfl
  | chunkParse =>
    refine alike_whenPending fun p => alike_checkRange <| alike_memRead fun r => ?_
    rw [withCrc_cfg]
    cases parseChunk s.cfg r <;> rfl
  | pngParse =>
    refine alike_whenPending fun p => alike_checkRange <| alike_memRead fun r => ?_
    rw [withCrc_cfg]
    cases parsePng s.cfg r <;> rfl
  | pngFind | pngRemove =>
    refine alike_whenPending fun p => ?_
    rw [withCrc_store]
    cases findFirst s.store (unpack4 p.key) <;> rfl
  | pngGet =>
    refine alike_whenPending fun p => ?_
    rw [withCrc_store]
    cases s.store[p.idx.toNat]? <;> rfl

end

/-- Settles O27: no shared operation looks at the CRC register, and no command outside the four writes it. -/
theorem crcRegisterIsPrivate : Obligations.CrcRegisterIsPrivate := by
  unfold Obligations.CrcRegisterIsPrivate
  exact fun _ _ _ h₁ h₂ h₃ h₄ => alike_exec h₁ h₂ h₃ h₄

end Sys2Proof.Proofs
end

section
namespace Sys2Proof.Proofs

open Sys2Proof.Machine Sys2Proof.Claims Sys2Proof.Laws

/-! ## The STATUS word -/

theorem getLsbD_flagBit (b : Bool) (pos j : Nat) (hpos : pos < 32) :
    (flagBit b pos).getLsbD j = (b && decide (pos = j)) := by
  cases b with
  | false => simp [flagBit]
  | true =>
    simp only [flagBit, if_true, BitVec.getLsbD_ofNat, Nat.testBit_two_pow, Bool.true_and]
    by_cases h : pos = j
    · simp [h, h ▸ hpos]
    · simp [h]

/-- Bit `j` of STATUS: the flags of bits 0 to 6, then ERR from bit 8 and SUBERR from bit 16 (R14 to R22). -/
theorem getLsbD_statusWord (s : State) (j : Nat) :
    s.statusWord.getLsbD j =
      (s.busy && decide (0 = j) || s.done && decide (1 = j) || s.found && decide (2 = j) || s.tv && decide (3 = j) ||
        s.wv && decide (4 = j) || s.sticky && decide (5 = j) || s.overrun && decide (6 = j) ||
        decide (j < 32) && !decide (j < 8) && s.err.code.getLsbD (j - 8) ||
        decide (j < 32) && !decide (j < 16) && s.suberr.code.getLsbD (j - 16)) := by
  have hshift (k : Nat) (h : j < 32) : j - k < 32 := by omega
  simp only [State.statusWord, BitVec.getLsbD_or, BitVec.getLsbD_shiftLeft, BitVec.getLsbD_setWidth,
    getLsbD_flagBit, Nat.reduceLT]
  by_cases h : j < 32 <;> simp [h, hshift]

/-- The flags stand below bit 8 ... -/
theorem getLsbD_statusWord_of_ge (s : State) {j : Nat} (hj : 8 ≤ j) :
    s.statusWord.getLsbD j =
      (decide (j < 32) && s.err.code.getLsbD (j - 8) ||
        decide (j < 32) && !decide (j < 16) && s.suberr.code.getLsbD (j - 16)) := by
  have hflag (k : Nat) (hk : k < 8) : decide (k = j) = false := decide_eq_false (by omega)
  rw [getLsbD_statusWord]
  simp [hflag, hj.not_gt]

/-- ... so that ERR, SUBERR and the reserved bits have the three upper bytes to themselves. -/
theorem extractLsb'_statusWord (s : State) :
    s.statusWord.extractLsb' 8 8 = s.err.code ∧ s.statusWord.extractLsb' 16 8 = s.suberr.code ∧
      s.statusWord.extractLsb' 24 8 = 0 := by
  refine ⟨?_, ?_, ?_⟩ <;> refine BitVec.eq_of_getLsbD_eq fun j hj => ?_ <;>
    rw [BitVec.getLsbD_extractLsb', getLsbD_statusWord_of_ge s (by omega)]
  · have hlow : 8 + j < 32 ∧ 8 + j < 16 := by omega
    simp [hj, hlow]
  · have herr : s.err.code.getLsbD (16 + j - 8) = false := BitVec.getLsbD_of_ge _ _ (by omega)
    have hlow : 16 + j < 32 := by omega
    simp [hj, hlow, herr]
  · have herr : s.err.code.getLsbD (24 + j - 8) = false := BitVec.getLsbD_of_ge _ _ (by omega)
    have hsub : s.suberr.code.getLsbD (24 + j - 16) = false := BitVec.getLsbD_of_ge _ _ (by omega)
    simp [herr, hsub]

/-- Settles O19: bit by bit, with the flags below bit 8 and each code in its own byte. -/
theorem statusWordLayout : Obligations.StatusWordLayout := by
  unfold Obligations.StatusWordLayout
  refine ⟨fun s => ?_, by decide⟩
  obtain ⟨herr, hsub, hrsv⟩ := extractLsb'_statusWord s
  refine ⟨?_, ?_, ?_, ?_, ?_, ?_, ?_, ?_, herr, hsub, hrsv⟩ <;> rw [getLsbD_statusWord] <;> simp [State.tv, State.wv]

/-! ## The register map -/

section
variable {s : State} {off : Nat} {rest : List Event}

/-- What a register holds, for a read with BUSY = 0 (R12 to R33). -/
def regValue (s : State) (r : Reg) : Word :=
  match r with
  | .cmd => 0
  | .status => s.statusWord
  | .argAddr => s.argAddr
  | .argLen => s.argLen
  | .argType => s.argType
  | .argIndex => s.argIndex
  | .result => s.result
  | .crc => s.crc
  | .outLen => s.outLen
  | .errOffset => s.errOffset
  | .id => idWord
  | .reserved => 0

theorem readReg_idle (h : s.busy = false) (r : Reg) : readReg s r = s.deliver (.word (regValue s r)) := by
  cases r <;> simp [readReg, readDrawn, regValue, h]

theorem hostAccess_regRead (hr : s.resetIn = false) (hoff : off % 4 = 0 ∧ off < 0x100) :
    hostAccess s (.read .reg off 32) = .next (readReg s (regAt off)) := by
  simp [hostAccess, hr, hostRead, regAdmits_iff.mpr ⟨rfl, hoff⟩]

theorem hostAccess_regWrite {v : Word} (hr : s.resetIn = false) (hoff : off % 4 = 0 ∧ off < 0x100) :
    hostAccess s (.write .reg off 32 v) = .next (writeReg s (regAt off) v) := by
  simp [hostAccess, hr, hostWrite, regAdmits_iff.mpr ⟨rfl, hoff⟩]

/-- A register read with BUSY = 0 delivers the register's value and changes nothing else. -/
theorem step_regRead (hok : s.cfg.ok = true) (hr : s.resetIn = false) (hbusy : s.busy = false)
    (hoff : off % 4 = 0 ∧ off < 0x100) (hev : s.events = .host (.read .reg off 32) :: rest) :
    step s = .next { s with events := rest, reads := .word (regValue s (regAt off)) :: s.reads } := by
  have hvalue : regValue { s with events := rest } (regAt off) = regValue s (regAt off) := by cases regAt off <;> rfl
  calc step s = hostAccess { s with events := rest } (.read .reg off 32) := step_of_event hok hev
    _ = .next (readReg { s with events := rest } (regAt off)) := hostAccess_regRead hr hoff
    _ = .next (State.deliver { s with events := rest } (.word (regValue s (regAt off)))) := by
      rw [readReg_idle (s := { s with events := rest }) hbusy, hvalue]

theorem step_regWrite {v : Word} (hok : s.cfg.ok = true) (hr : s.resetIn = false)
    (hoff : off % 4 = 0 ∧ off < 0x100) (hev : s.events = .host (.write .reg off 32 v) :: rest) :
    step s = .next (writeReg { s with events := rest } (regAt off) v) :=
  (step_of_event hok hev).trans (hostAccess_regWrite hr hoff)

/-- Every offset past ID is reserved (R12, R33). -/
theorem regAt_reserved (h : 0x2C ≤ off) : regAt off = .reserved := by
  unfold regAt
  split
  case h_12 => rfl
  all_goals omega

end

/-- Settles O12: a register read delivers `regValue`, and the map of offsets is `regAt`. -/
theorem registerMapWhenIdle : Obligations.RegisterMapWhenIdle := by
  unfold Obligations.RegisterMapWhenIdle
  intro s off v rest hok hr hbusy hmap hev
  rcases hmap with hmap | ⟨hlow, hhigh, hmod, rfl⟩
  · simp only [List.mem_cons, Prod.mk.injEq, List.not_mem_nil, or_false] at hmap
    rcases hmap with ⟨rfl, rfl⟩ | ⟨rfl, rfl⟩ | ⟨rfl, rfl⟩ | ⟨rfl, rfl⟩ | ⟨rfl, rfl⟩ | ⟨rfl, rfl⟩ | ⟨rfl, rfl⟩ |
      ⟨rfl, rfl⟩ | ⟨rfl, rfl⟩ | ⟨rfl, rfl⟩ | ⟨rfl, rfl⟩ <;>
    exact step_regRead hok hr hbusy (by decide) hev
  · have hread := step_regRead hok hr hbusy ⟨hmod, by omega⟩ hev
    rwa [regAt_reserved hlow] at hread

/-- Settles O13: `writeReg` ignores a write to a read-only register or a reserved offset. -/
theorem readOnlyAndReservedWritesAreIgnored : Obligations.ReadOnlyAndReservedWritesAreIgnored := by
  unfold Obligations.ReadOnlyAndReservedWritesAreIgnored
  intro s off v rest hok hr hoff hev
  rcases hoff with hoff | ⟨hlow, hhigh, hmod⟩
  · simp only [List.mem_cons, List.not_mem_nil, or_false] at hoff
    rcases hoff with rfl | rfl | rfl | rfl | rfl | rfl <;> exact step_regWrite hok hr (by decide) hev
  · have hwrite := step_regWrite hok hr ⟨hmod, by omega⟩ hev
    rwa [regAt_reserved hlow] at hwrite

end Sys2Proof.Proofs
end

section
namespace Sys2Proof.Proofs

open Sys2Proof.Machine Sys2Proof.Claims Sys2Proof.Laws

/-! ## The accesses the bus admits -/

section
variable {s : State} {a : Access} {rest : List Event}

theorem bufAdmits_iff {size off width : Nat} : bufAdmits size off width = true ↔ width = 8 ∧ off < size := by
  simp [bufAdmits]

/-- The accesses the bus admits (R44 to R46). `hostAccess_notAdmitted` ties it to `hostAccess`. -/
def busAdmits (cfg : Params) (a : Access) : Bool :=
  match a with
  | .read .reg off width | .write .reg off width _ => regAdmits off width
  | .read .ibuf off width | .write .ibuf off width _ => bufAdmits cfg.ibufSize off width
  | .read .obuf off width => bufAdmits cfg.obufSize off width
  | .write .obuf _ _ _ => false

/-- Whatever the reset input and BUSY: `hostAccess` looks at what the bus admits before it looks at BUSY. -/
theorem hostAccess_notAdmitted (h : busAdmits s.cfg a = false) : hostAccess s a = .fault .hostBusError := by
  unfold hostAccess
  split
  · rfl
  · cases a with
    | read sp off width =>
      cases sp with
      | reg | ibuf | obuf => exact if_neg (Bool.eq_false_iff.mp h)
    | write sp off width v =>
      cases sp with
      | reg | ibuf => exact if_neg (Bool.eq_false_iff.mp h)
      | obuf => rfl

theorem step_notAdmitted (hok : s.cfg.ok = true) (h : busAdmits s.cfg a = false) (hev : s.events = .host a :: rest) :
    step s = .fault .hostBusError :=
  (step_of_event hok hev).trans (hostAccess_notAdmitted (s := { s with events := rest }) h)

theorem regAdmits_eq_false {off width : Nat} (h : width ≠ 32 ∨ off % 4 ≠ 0 ∨ 0x100 ≤ off) :
    regAdmits off width = false := by
  rw [← Bool.not_eq_true, regAdmits_iff]; omega

theorem bufAdmits_eq_false {size off width : Nat} (h : width ≠ 8 ∨ size ≤ off) : bufAdmits size off width = false := by
  rw [← Bool.not_eq_true, bufAdmits_iff]; omega

end

/-- Settles O14: each clause is an access that `busAdmits` denies. -/
theorem busErrors : Obligations.BusErrors := by
  unfold Obligations.BusErrors
  intro s off width v rest hok
  refine ⟨fun hreg => ?_, fun hibuf => ?_, fun hobuf => ?_, step_notAdmitted hok rfl⟩
  · have hno := regAdmits_eq_false hreg
    exact ⟨step_notAdmitted hok hno, step_notAdmitted hok hno⟩
  · have hno := bufAdmits_eq_false hibuf
    exact ⟨step_notAdmitted hok hno, step_notAdmitted hok hno⟩
  · exact step_notAdmitted hok (bufAdmits_eq_false hobuf)

/-! ## The cells of IBUF and OBUF -/

section
variable {s : State} {a : Nat} {rest : List Event}

theorem readCell_some {m : Memory} {b : Byte} (h : m.read a = some b) : readCell s m a = .next (s.deliver (.byte b)) := by
  simp [readCell, h]

theorem readCell_none {m : Memory} (h : m.read a = none) : readCell s m a = .fault .uninitRead := by
  simp [readCell, h]

/-- IBUF reads exactly, whatever BUSY (R42, R209). -/
theorem hostAccess_ibufRead (hr : s.resetIn = false) (ha : a < s.cfg.ibufSize) :
    hostAccess s (.read .ibuf a 8) = readCell s s.ibuf a := by
  simp [hostAccess, hr, hostRead, bufAdmits_iff.mpr ⟨rfl, ha⟩]

theorem hostAccess_obufRead_idle (hr : s.resetIn = false) (ha : a < s.cfg.obufSize) (hbusy : s.busy = false) :
    hostAccess s (.read .obuf a 8) = readCell s s.obuf a := by
  simp [hostAccess, hr, hostRead, bufAdmits_iff.mpr ⟨rfl, ha⟩, hbusy]

theorem hostAccess_ibufWrite_idle {v : Word} (hr : s.resetIn = false) (ha : a < s.cfg.ibufSize)
    (hbusy : s.busy = false) :
    hostAccess s (.write .ibuf a 8 v) = .next { s with ibuf := s.ibuf.write a (v.setWidth 8) } := by
  simp [hostAccess, hr, hostWrite, bufAdmits_iff.mpr ⟨rfl, ha⟩, hbusy]

/-- A step that reads the cell `a` of `m` delivers its byte, or faults when the cell is unwritten (R42, R43). -/
theorem step_of_readCell {m : Memory} (h : step s = readCell { s with events := rest } m a) :
    (∀ b, m.read a = some b → step s = .next { s with events := rest, reads := .byte b :: s.reads }) ∧
      (m.read a = none → step s = .fault .uninitRead) :=
  ⟨fun _ hb => h.trans (readCell_some hb), fun hn => h.trans (readCell_none hn)⟩

end

/-- No command writes IBUF (R42): neither end of a command does. -/
theorem exec_ibuf {i : Instr} {s t : State} (h : exec i s = .next t) : t.ibuf = s.ibuf := by
  cases endsIn_exec s i t h with
  | raised => rfl
  | finished hw => exact (writes_frame hw).ibuf

/-- Settles O15: a host access at an admitted address is `Memory.write` or `readCell`, and `read_write` says what a write
leaves. -/
theorem ibufCells : Obligations.IbufCells := by
  unfold Obligations.IbufCells
  refine ⟨read_nil, fun _ _ _ => exec_ibuf, fun s a rest hok hr ha => ⟨fun v hbusy hev => ?_, fun hev => ?_⟩⟩
  · have hstep : step s = .next { s with events := rest, ibuf := s.ibuf.write a (v.setWidth 8) } :=
      (step_of_event hok hev).trans (hostAccess_ibufWrite_idle (s := { s with events := rest }) hr ha hbusy)
    exact ⟨_, hstep, rfl, by rw [read_write, if_pos rfl], fun x hx => by rw [read_write, if_neg hx]⟩
  · exact step_of_readCell <|
      (step_of_event hok hev).trans (hostAccess_ibufRead (s := { s with events := rest }) hr ha)

/-- Settles O16: with BUSY = 0 a host read is `readCell`, and the bus admits no write to OBUF. -/
theorem obufCells : Obligations.ObufCells := by
  unfold Obligations.ObufCells
  refine ⟨read_nil, fun s a rest hok hr ha hbusy => ⟨fun hev => ?_, fun v => step_notAdmitted hok rfl⟩⟩
  exact step_of_readCell <|
    (step_of_event hok hev).trans (hostAccess_obufRead_idle (s := { s with events := rest }) hr ha hbusy)

end Sys2Proof.Proofs
end

section
namespace Sys2Proof.Proofs

open Sys2Proof.Machine Sys2Proof.Claims Sys2Proof.Laws

/-! ## The decoder and the encoder, by the fields of a command word -/

section
variable {opc imm : Byte} {f : CommandFields} {cw : Word} {i j : Instr}

/-- The class of an opcode, by its value (R67). -/
theorem formatOfOpcode_eq_ite : formatOfOpcode opc =
    if opc.toNat = 0x02 ∨ opc.toNat = 0x06 then some .i
    else if opc.toNat ≤ 0x06 ∨ (0x10 ≤ opc.toNat ∧ opc.toNat ≤ 0x18) ∨ (0x20 ≤ opc.toNat ∧ opc.toNat ≤ 0x27) ∨
      (0x30 ≤ opc.toNat ∧ opc.toNat ≤ 0x36) ∨ opc.toNat = 0x3F then some .n
    else none := by
  unfold formatOfOpcode
  split
  · next h2 => simp [h2]
  · next h6 => simp [h6]
  · next h2 h6 => rw [if_neg (not_or.mpr ⟨h2, h6⟩)]

/-- The class I commands are CRC_BYTE and CRC_TABLE (R64, R67). -/
theorem formatOfOpcode_eq_i_iff : formatOfOpcode opc = some .i ↔ opc.toNat = 0x02 ∨ opc.toNat = 0x06 := by
  rw [formatOfOpcode_eq_ite]
  split_ifs <;> simp [*]

/-- The unassigned OPC values of R67. -/
theorem formatOfOpcode_eq_none_iff : formatOfOpcode opc = none ↔
    (0x07 ≤ opc.toNat ∧ opc.toNat ≤ 0x0F) ∨ (0x19 ≤ opc.toNat ∧ opc.toNat ≤ 0x1F) ∨
      (0x28 ≤ opc.toNat ∧ opc.toNat ≤ 0x2F) ∨ (0x37 ≤ opc.toNat ∧ opc.toNat ≤ 0x3E) ∨ 0x40 ≤ opc.toNat := by
  rw [formatOfOpcode_eq_ite]
  split_ifs <;> simp only [false_iff, true_iff] <;> omega

/-- The two readings of R67's table, class and command, have the same assigned opcodes. -/
theorem instrOfOpcode_eq_none_iff : instrOfOpcode opc imm = none ↔ formatOfOpcode opc = none := by
  rw [formatOfOpcode_eq_none_iff]
  unfold instrOfOpcode
  split <;> simp only [reduceCtorEq, false_iff, true_iff, imp_false] at * <;> omega

theorem opc_fieldsOfInstr_of_instrOfOpcode (h : instrOfOpcode opc imm = some i) : (fieldsOfInstr i).opc = opc := by
  unfold instrOfOpcode at h
  split at h <;> cases h
  all_goals next hopc => exact BitVec.eq_of_toNat_eq hopc.symm

@[simp] theorem instrOfOpcode_fieldsOfInstr (i : Instr) :
    instrOfOpcode (fieldsOfInstr i).opc (fieldsOfInstr i).imm = some i := by
  cases i <;> rfl

/-- R66 with each condition denied. -/
theorem wellFormed_iff : f.wellFormed = true ↔
    f.rsv = 0 ∧ formatOfOpcode f.opc ≠ none ∧ (f.imm = 0 ∨ formatOfOpcode f.opc = some .i) := by
  unfold CommandFields.wellFormed
  split <;> simp [*]

/-- At an assigned opcode R66 leaves two conditions, the ones `decode` tests. -/
theorem wellFormed_iff_of_assigned (h : formatOfOpcode f.opc ≠ none) :
    f.wellFormed = true ↔ f.rsv = 0 ∧ ¬(formatOfOpcode f.opc = some .n ∧ f.imm ≠ 0) := by
  unfold CommandFields.wellFormed
  split <;> simp_all

@[simp] theorem wellFormed_fieldsOfInstr (i : Instr) : (fieldsOfInstr i).wellFormed = true := by
  cases i <;> rfl

theorem commandFields_ext {g : CommandFields} (hopc : f.opc = g.opc) (himm : f.imm = g.imm) (hrsv : f.rsv = g.rsv) :
    f = g := by
  cases f; cases g
  exact (CommandFields.mk.injEq ..).mpr ⟨hopc, himm, hrsv⟩

/-- The commands with IMM are those of class I (R64). -/
theorem formatOfOpcode_fieldsOfInstr_eq_i_iff :
    formatOfOpcode (fieldsOfInstr i).opc = some .i ↔ (∃ b, i = .crcByte b) ∨ ∃ b, i = .crcTable b := by
  cases i <;> simp [fieldsOfInstr, formatOfOpcode]

/-- Well-formed fields are those of the command of their opcode: in class N both IMMs are 0, and in class I the command
carries IMM. -/
theorem fieldsOfInstr_of_instrOfOpcode (hf : f.wellFormed = true) (h : instrOfOpcode f.opc f.imm = some i) :
    fieldsOfInstr i = f := by
  have hopc := opc_fieldsOfInstr_of_instrOfOpcode h
  obtain ⟨hrsv, -, himm⟩ := wellFormed_iff.mp hf
  obtain ⟨hrsv', -, himm'⟩ := wellFormed_iff.mp (wellFormed_fieldsOfInstr i)
  have himmEq : (fieldsOfInstr i).imm = f.imm := by
    by_cases hclass : formatOfOpcode f.opc = some .i
    · rcases formatOfOpcode_eq_i_iff.mp hclass with h2 | h6
      · simp only [instrOfOpcode, h2, Option.some.injEq] at h
        rw [← h]; rfl
      · simp only [instrOfOpcode, h6, Option.some.injEq] at h
        rw [← h]; rfl
    · rw [himm.resolve_right hclass, himm'.resolve_right (hopc ▸ hclass)]
  exact commandFields_ext hopc himmEq (hrsv'.trans hrsv.symm)

/-- Every well-formed field triple is some command's. -/
theorem wellFormed_iff_exists_fieldsOfInstr : f.wellFormed = true ↔ ∃ i, fieldsOfInstr i = f := by
  refine ⟨fun hf => ?_, fun ⟨i, hi⟩ => hi ▸ wellFormed_fieldsOfInstr i⟩
  obtain ⟨-, hassigned, -⟩ := wellFormed_iff.mp hf
  obtain ⟨i, hi⟩ := Option.ne_none_iff_exists'.mp (instrOfOpcode_eq_none_iff.not.mpr hassigned)
  exact ⟨i, fieldsOfInstr_of_instrOfOpcode hf hi⟩

/-- `decode` through its two tables; `decode_eq_command_iff` is the form to use. -/
theorem decode_eq_command_iff_instrOfOpcode : decode cw = .command i ↔
    (fieldsOfWord cw).wellFormed = true ∧ instrOfOpcode (fieldsOfWord cw).opc (fieldsOfWord cw).imm = some i := by
  unfold decode
  dsimp only
  split
  · next hrsv => exact ⟨nofun, fun ⟨hf, _⟩ => absurd (wellFormed_iff.mp hf).1 hrsv⟩
  · next hrsv =>
    split
    · next hnone => simp [hnone]
    · next j hj =>
      have hassigned := instrOfOpcode_eq_none_iff.not.mp (hj ▸ Option.some_ne_none j)
      rw [wellFormed_iff_of_assigned hassigned, hj]
      split
      · next hillegal => exact ⟨nofun, fun h => absurd hillegal h.1.2⟩
      · next hlegal => rw [Decoded.command.injEq, Option.some_inj, and_iff_right ⟨not_not.mp hrsv, hlegal⟩]

/-- The decoder, said once: a word decodes to the command whose fields it has. -/
theorem decode_eq_command_iff : decode cw = .command i ↔ fieldsOfInstr i = fieldsOfWord cw := by
  rw [decode_eq_command_iff_instrOfOpcode]
  exact ⟨fun ⟨hf, hi⟩ => fieldsOfInstr_of_instrOfOpcode hf hi, fun h => by simp [← h]⟩

/-- A word is illegal when its fields are not well formed (R66). -/
theorem exists_illegal_iff : (∃ why, decode cw = .illegal why) ↔ ¬(fieldsOfWord cw).wellFormed = true := by
  rw [wellFormed_iff_exists_fieldsOfInstr]
  simp only [← decode_eq_command_iff]
  cases decode cw <;> simp

end

/-- Settles O1: a word and a command agree when they have the same fields, and words and fields are one to one. -/
theorem decodeAndEncodeAgree : Obligations.DecodeAndEncodeAgree := by
  unfold Obligations.DecodeAndEncodeAgree
  refine ⟨fun i => ⟨wellFormed_fieldsOfInstr i, ?_⟩, fun cw i h => ?_⟩
  · exact decode_eq_command_iff.mpr (fieldsOfWord_wordOfFields (fieldsOfInstr i)).symm
  · rw [encode, decode_eq_command_iff.mp h, wordOfFields_fieldsOfWord]

/-! ## The row of a word: mask, match and mnemonic -/

section
variable {f g : CommandFields} {cw : Word} {i j : Instr}

theorem wordOfFields_inj : wordOfFields f = wordOfFields g ↔ f = g :=
  (Function.LeftInverse.injective fieldsOfWord_wordOfFields).eq_iff

/-- The mask of class I clears IMM. -/
theorem wordOfFields_and_classI (f : CommandFields) :
    wordOfFields f &&& 0xFFFF00FF = wordOfFields { f with imm := 0 } := by
  have hmask : (0xFFFF00FF : Word) = BitVec.allOnes 16 ++ 0#8 ++ BitVec.allOnes 8 := by decide
  rw [wordOfFields, wordOfFields, hmask, BitVec.and_append, BitVec.and_append, BitVec.and_allOnes, BitVec.and_allOnes,
    BitVec.and_zero]
  rfl

theorem matchWord_eq (i : Instr) : matchWord i = wordOfFields ⟨(fieldsOfInstr i).opc, 0, 0⟩ := by
  apply BitVec.eq_of_toNat_eq
  rw [wordOfFields_toNat, matchWord, BitVec.toNat_setWidth_of_le (by decide)]
  simp

/-- The mask by the class, the unassigned opcodes not being a command's. -/
theorem maskWord_eq (i : Instr) :
    maskWord i = if formatOfOpcode (fieldsOfInstr i).opc = some .i then 0xFFFF00FF else 0xFFFFFFFF := by
  unfold maskWord
  split <;> simp [*]

/-- A word matches a row when it has the row's opcode and is legal (R65, R66). -/
theorem and_maskWord_eq_matchWord_iff : cw &&& maskWord i = matchWord i ↔
    (fieldsOfInstr i).opc = (fieldsOfWord cw).opc ∧ (fieldsOfWord cw).wellFormed = true := by
  obtain ⟨-, hassigned, -⟩ := wellFormed_iff.mp (wellFormed_fieldsOfInstr i)
  rw [matchWord_eq, maskWord_eq, ← wordOfFields_fieldsOfWord cw, fieldsOfWord_wordOfFields]
  generalize fieldsOfWord cw = f
  have hrow : (fieldsOfInstr i).opc = f.opc ∧ f.wellFormed = true ↔
      (fieldsOfInstr i).opc = f.opc ∧ f.rsv = 0 ∧ (f.imm = 0 ∨ formatOfOpcode (fieldsOfInstr i).opc = some .i) :=
    and_congr_right fun hopc => by simp [wellFormed_iff, ← hopc, hassigned]
  rw [hrow, eq_comm (b := f.opc)]
  obtain ⟨opc, imm, rsv⟩ := f
  split
  · next hclass =>
    rw [wordOfFields_and_classI, wordOfFields_inj]
    simp [hclass]
  · next hclass =>
    rw [show (0xFFFFFFFF : Word) = BitVec.allOnes 32 from rfl, BitVec.and_allOnes, wordOfFields_inj]
    simp [hclass, and_comm]

/-- The mnemonic of R67's row with this opcode. -/
def mnemonicOfOpcode (opc : Byte) : Option String := (instrOfOpcode opc 0).map Instr.mnemonic

theorem mnemonicOfOpcode_fieldsOfInstr (i : Instr) : mnemonicOfOpcode (fieldsOfInstr i).opc = some i.mnemonic := by
  cases i <;> rfl

/-- The first opcode whose row has this mnemonic. -/
def opcodeOfMnemonic (m : String) : Option Nat :=
  (List.range 0x40).find? fun n => mnemonicOfOpcode (BitVec.ofNat 8 n) == some m

theorem opcodeOfMnemonic_mnemonic (i : Instr) : opcodeOfMnemonic i.mnemonic = some (fieldsOfInstr i).opc.toNat := by
  cases i <;> rfl

/-- R67 names each opcode once. -/
theorem mnemonic_eq_iff : i.mnemonic = j.mnemonic ↔ (fieldsOfInstr i).opc = (fieldsOfInstr j).opc := by
  constructor
  · intro h
    have hopc := opcodeOfMnemonic_mnemonic i
    rw [h, opcodeOfMnemonic_mnemonic j] at hopc
    exact (BitVec.eq_of_toNat_eq (Option.some.inj hopc)).symm
  · intro h
    have hname := mnemonicOfOpcode_fieldsOfInstr i
    rw [h, mnemonicOfOpcode_fieldsOfInstr j] at hname
    exact (Option.some.inj hname).symm

end

/-- Settles O2: a word matches a row when it is legal and has the row's opcode, and a legal word decodes to the command
of its opcode. -/
theorem decodeIsMaskAndMatch : Obligations.DecodeIsMaskAndMatch := by
  unfold Obligations.DecodeIsMaskAndMatch
  refine ⟨fun i => ⟨?_, fun cw => ?_⟩, fun cw i j hi hj => ?_⟩
  · rw [maskWord_eq]
    simp only [formatOfOpcode_fieldsOfInstr_eq_i_iff]
  · rw [and_maskWord_eq_matchWord_iff, wellFormed_iff_exists_fieldsOfInstr]
    simp only [mnemonic_eq_iff, decode_eq_command_iff]
    constructor
    · rintro ⟨hopc, j, hj⟩
      exact ⟨j, by rw [hj, hopc], hj⟩
    · rintro ⟨j, hopc, hj⟩
      exact ⟨by rw [← hopc, hj], j, hj⟩
  · rw [mnemonic_eq_iff, (and_maskWord_eq_matchWord_iff.mp hi).1, (and_maskWord_eq_matchWord_iff.mp hj).1]

/-- Settles O3: an illegal word is one whose fields are not well formed, in numbers. -/
theorem illegalWordsAreTheUnassigned : Obligations.IllegalWordsAreTheUnassigned := by
  unfold Obligations.IllegalWordsAreTheUnassigned
  intro cw
  obtain ⟨hopc, himm, hrsv⟩ := fieldsOfWord_toNat cw
  rw [exists_illegal_iff, wellFormed_iff, ne_eq, formatOfOpcode_eq_none_iff, formatOfOpcode_eq_i_iff,
    ← BitVec.toNat_inj, ← BitVec.toNat_inj, hopc, himm, hrsv]
  simp only [BitVec.ofNat_eq_ofNat, BitVec.toNat_zero]
  omega

/-- Settles O4: the decoder runs on each word. -/
theorem sampleWordsDecode : Obligations.SampleWordsDecode := by
  unfold Obligations.SampleWordsDecode
  decide

end Sys2Proof.Proofs
end

section
namespace Sys2Proof.Proofs

open Sys2Proof.Machine Sys2Proof.Claims Sys2Proof.Laws

/-! ## The CRC loop of R81 is linear, and shifts a word whose low bits are clear -/

section
variable (x y c : Word) (b : Byte) (n : Nat)

/-- One iteration as a sum: the shifted word, and the polynomial when bit 0 is set. -/
theorem crcShift_eq : crcShift x = (x >>> 1) ^^^ (if x.getLsbD 0 then crcPoly else 0) := by
  unfold crcShift
  split <;> simp

theorem crcShift_xor : crcShift (x ^^^ y) = crcShift x ^^^ crcShift y := by
  have hpoly : (if (x ^^^ y).getLsbD 0 then crcPoly else 0) =
      (if x.getLsbD 0 then crcPoly else 0) ^^^ (if y.getLsbD 0 then crcPoly else 0) := by
    rw [BitVec.getLsbD_xor]
    cases x.getLsbD 0 <;> cases y.getLsbD 0 <;> simp
  rw [crcShift_eq, crcShift_eq x, crcShift_eq y, BitVec.ushiftRight_xor_distrib, hpoly]
  ac_rfl

theorem crcLoop_eq_iterate : crcLoop n c = crcShift^[n] c := by
  induction n generalizing c with
  | zero => rfl
  | succ k ih => exact ih (crcShift c)

theorem eightShifts_eq_crcLoop : eightShifts c = crcLoop 8 c := (crcLoop_eq_iterate c 8).symm

theorem crcLoop_xor : crcLoop n (x ^^^ y) = crcLoop n x ^^^ crcLoop n y := by
  simp only [crcLoop_eq_iterate]
  exact Function.Semiconj₂.iterate crcShift_xor n x y

/-- While the low bits are clear the loop only shifts. -/
theorem crcLoop_of_low_clear (h : ∀ i < n, x.getLsbD i = false) : crcLoop n x = x >>> n := by
  induction n generalizing x with
  | zero => simp [crcLoop]
  | succ k ih =>
    have hshift : crcShift x = x >>> 1 := if_neg (Bool.eq_false_iff.mp (h 0 (by omega)))
    rw [crcLoop, hshift, ih _ fun i hi => by rw [BitVec.getLsbD_ushiftRight]; exact h _ (by omega),
      ← BitVec.shiftRight_add, Nat.add_comm]

/-- A word is its low byte and the rest. -/
theorem xor_low_byte : x = (x.setWidth 8).setWidth 32 ^^^ (x >>> 8 <<< 8) := by
  ext i hi
  by_cases h8 : i < 8
  · simp [h8, BitVec.getLsbD_eq_getElem hi]
  · simp [h8, show 8 + (i - 8) = i by omega, hi]

/-- Eight iterations: the table entry of the low byte, and the rest shifted out (R82, R84). -/
theorem crcLoop_eight : crcLoop 8 x = crcTable (x.setWidth 8) ^^^ (x >>> 8) := by
  have hrest : crcLoop 8 (x >>> 8 <<< 8) = x >>> 8 := by
    rw [crcLoop_of_low_clear _ _ fun i hi => by simp [hi]]
    ext i hi
    simpa using BitVec.lt_of_getLsbD
  calc crcLoop 8 x = crcLoop 8 ((x.setWidth 8).setWidth 32 ^^^ (x >>> 8 <<< 8)) := by rw [← xor_low_byte]
    _ = crcTable (x.setWidth 8) ^^^ (x >>> 8) := by rw [crcLoop_xor, hrest, crcTable]

/-- The table step is the bitwise step: the byte does not reach the bits that are shifted out of the low byte. -/
theorem crcStep_eq_crcLoop : crcStep c b = crcLoop 8 (c ^^^ b.setWidth 32) := by
  have hhigh : (c ^^^ b.setWidth 32) >>> 8 = c >>> 8 := by
    ext i hi
    simp
  rw [crcLoop_eight, hhigh, crcStep]

end

/-- Settles O20: eight iterations of the loop look up the low byte and shift the rest. -/
theorem crcStepIsTheBitwiseStep : Obligations.CrcStepIsTheBitwiseStep := by
  unfold Obligations.CrcStepIsTheBitwiseStep
  intro c b
  rw [eightShifts_eq_crcLoop, crcStep_eq_crcLoop]

/-! ## The fold -/

theorem crcFold_eq_foldl (c : Word) (s : List Byte) : crcFold c s = s.foldl crcStep c := by
  induction s generalizing c with
  | nil => rfl
  | cons b rest ih => exact ih (crcStep c b)

theorem crcFold_append (c : Word) (s t : List Byte) : crcFold c (s ++ t) = crcFold (crcFold c s) t := by
  simp only [crcFold_eq_foldl, List.foldl_append]

/-- Settles O21: the definitions clause by clause, and the split law of a left fold. -/
theorem crcFoldIsTheIteratedUpdate : Obligations.CrcFoldIsTheIteratedUpdate := by
  unfold Obligations.CrcFoldIsTheIteratedUpdate
  exact ⟨fun n => (eightShifts_eq_crcLoop _).symm, fun _ _ => rfl, fun _ => rfl, fun _ _ _ => rfl, fun _ => rfl,
    by decide, crcFold_append⟩

/-! ## The normal form: reflection carries the model's loop to the loop on polynomial 0x04C11DB7 -/

/-- One bit of the CRC in its normal form (R80); `normalStep_eq_iterate` ties it to the statement's `normalStep`. -/
def normalShift (c : Word) : Word := if c.getMsbD 0 then (c <<< 1) ^^^ 0x04C11DB7 else c <<< 1

theorem normalStep_eq_iterate (c : Word) (b : Byte) :
    normalStep c b = normalShift^[8] (c ^^^ (b.reverse.setWidth 32 <<< 24)) := rfl

theorem reverse_reverse {w : Nat} (x : BitVec w) : x.reverse.reverse = x := by
  ext i hi
  rw [BitVec.getElem_reverse, BitVec.getMsbD_reverse, BitVec.getLsbD_eq_getElem hi]

theorem reverse_xor {w : Nat} (x y : BitVec w) : (x ^^^ y).reverse = x.reverse ^^^ y.reverse := by
  ext i hi
  simp only [BitVec.getElem_xor, BitVec.getElem_reverse, BitVec.getMsbD_xor]

theorem reverse_ushiftRight_one (x : Word) : (x >>> 1).reverse = x.reverse <<< 1 := by
  ext i hi
  simp [BitVec.getElem_reverse, BitVec.getMsbD_ushiftRight, hi]

/-- An input byte, reflected, stands in the top byte of the register. -/
theorem reverse_setWidth_byte (b : Byte) : (b.setWidth 32 : Word).reverse = b.reverse.setWidth 32 <<< 24 := by
  ext i hi
  have htop : decide (24 ≤ i) = !decide (i < 24) := by simp [← decide_not]
  simp [BitVec.getElem_reverse, BitVec.getMsbD_setWidth, BitVec.getLsbD_reverse, htop]

theorem reverse_crcShift (x : Word) : (crcShift x).reverse = normalShift x.reverse := by
  have hpoly : crcPoly.reverse = 0x04C11DB7 := by decide +kernel
  simp only [crcShift, normalShift, BitVec.getMsbD_reverse, apply_ite BitVec.reverse, reverse_xor,
    reverse_ushiftRight_one, hpoly]

theorem reverse_crcStep (c : Word) (b : Byte) : normalStep c.reverse b = (crcStep c b).reverse := by
  have hloop := Function.Semiconj.iterate_right (f := BitVec.reverse) reverse_crcShift 8
  rw [crcStep_eq_crcLoop, crcLoop_eq_iterate, hloop, reverse_xor, reverse_setWidth_byte, normalStep_eq_iterate]

theorem crcFold_eq_foldl_normalStep (c : Word) (s : List Byte) :
    crcFold c s = (s.foldl normalStep c.reverse).reverse := by
  rw [List.foldl_hom _ reverse_crcStep, reverse_reverse, crcFold_eq_foldl]

/-- Settles O22: reflecting the register turns the fold into the normal-form CRC. -/
theorem crc32IsIsoHdlc : Obligations.Crc32IsIsoHdlc := by
  unfold Obligations.Crc32IsIsoHdlc
  have hones : crcOnes.reverse = 0xFFFFFFFF := by decide +kernel
  exact ⟨fun s => by rw [crc32, crcFold_eq_foldl_normalStep, hones, crcOnes], by decide +kernel⟩

end Sys2Proof.Proofs
end

section
namespace Sys2Proof.Proofs

open Sys2Proof.Machine Sys2Proof.Claims Sys2Proof.Laws

/-! ## The CRC commands -/

section
variable {s : State} {p : Pending}

theorem exec_crcInit (hp : s.pend = some p) : exec .crcInit s = .next (ended { s with crc := 0xFFFFFFFF }) :=
  whenPending_some hp

theorem exec_crcByte (hp : s.pend = some p) (b : Byte) :
    exec (.crcByte b) s = .next (ended { s with crc := crcStep s.crc b }) := whenPending_some hp

theorem exec_crcFinal (hp : s.pend = some p) :
    exec .crcFinal s = .next (ended { s with result := s.crc ^^^ 0xFFFFFFFF }) := whenPending_some hp

theorem exec_crcTable (hp : s.pend = some p) (b : Byte) :
    exec (.crcTable b) s = .next (ended { s with result := crcTable b }) := whenPending_some hp

/-- A command that hands the bytes of its input range to `k` (R9, R47): CRC_BUF and CRC_CHECKSUM, by `exec_crcBuf` and
`exec_crcChecksum`. -/
def onInput (s : State) (k : List Byte → Result) : Result :=
  whenPending s fun p => checkRange s p <| memRead s p.addr.toNat p.len.toNat k

theorem onInput_of_outside {k : List Byte → Result} (hp : s.pend = some p) (h : inputOutside s p) :
    onInput s k = .next (failed s .bufferRange .success 0) :=
  (whenPending_some hp).trans (checkRange_of_gt h)

theorem onInput_of_missing {k : List Byte → Result} (hp : s.pend = some p) (h : inputMissing s p) :
    onInput s k = .fault .uninitInput := by
  obtain ⟨hrange, hmissing⟩ := h
  exact (whenPending_some hp).trans <| (checkRange_of_le hrange).trans (memRead_of_unwritten hmissing)

theorem onInput_of_inputIs {k : List Byte → Result} {bytes : List Byte} (hp : s.pend = some p)
    (h : inputIs s p bytes) : onInput s k = k bytes := by
  obtain ⟨hrange, hlen, hcells⟩ := h
  exact (whenPending_some hp).trans <| (checkRange_of_le hrange).trans (hlen ▸ memRead_of_written hcells)

theorem exec_crcBuf (s : State) :
    exec .crcBuf s = onInput s fun bytes => finish { s with crc := crcFold s.crc bytes } := rfl

theorem exec_crcChecksum (s : State) :
    exec .crcChecksum s = onInput s fun bytes => finish { s with result := crc32 bytes } := rfl

end

theorem encode_toNat (i : Instr) : (encode i).toNat =
    (fieldsOfInstr i).rsv.toNat * 2 ^ 16 + (fieldsOfInstr i).imm.toNat * 2 ^ 8 + (fieldsOfInstr i).opc.toNat :=
  wordOfFields_toNat (fieldsOfInstr i)

theorem encode_crcByte_toNat (b : Byte) : (encode (.crcByte b)).toNat = b.toNat * 256 + 2 := by
  rw [encode_toNat]
  simp [fieldsOfInstr]

theorem encode_crcTable_toNat (b : Byte) : (encode (.crcTable b)).toNat = b.toNat * 256 + 6 := by
  rw [encode_toNat]
  simp [fieldsOfInstr]

/-- Settles O23: one equation per command. -/
theorem crcRegisterCommands : Obligations.CrcRegisterCommands := by
  unfold Obligations.CrcRegisterCommands
  exact ⟨by decide, by decide, fun b => ⟨encode_crcByte_toNat b, encode_crcTable_toNat b⟩,
    fun _ _ b hp => ⟨exec_crcInit hp, exec_crcByte hp b, exec_crcFinal hp, exec_crcTable hp b⟩⟩

/-- Settles O24: CRC_BUF folds what `onInput` hands it. -/
theorem crcBufFoldsTheInput : Obligations.CrcBufFoldsTheInput := by
  unfold Obligations.CrcBufFoldsTheInput
  refine ⟨by decide, fun s p hp => ?_⟩
  rw [exec_crcBuf]
  exact ⟨onInput_of_outside hp, onInput_of_missing hp, fun _ => onInput_of_inputIs hp⟩

/-- Settles O25: CRC_CHECKSUM takes CRC32 of what `onInput` hands it. -/
theorem crcChecksumOfTheInput : Obligations.CrcChecksumOfTheInput := by
  unfold Obligations.CrcChecksumOfTheInput
  refine ⟨by decide, fun s p hp => ?_⟩
  rw [exec_crcChecksum]
  exact ⟨onInput_of_outside hp, onInput_of_missing hp, fun _ => onInput_of_inputIs hp⟩

/-! ## The incremental computation -/

section
variable {s t : State} {v : Word} {i : Instr} {rest : List Event}

/-- The conditions under which the host's next write to CMD is accepted (R205), and what is to come. -/
structure Idle (s : State) (evs : List Event) : Prop where
  cfgOk : s.cfg.ok = true
  released : s.resetIn = false
  notBusy : s.busy = false
  events : s.events = evs

/-- A run of the model's steps, at the state's own type. -/
def runSteps (n : Nat) (s : State) : Result := Host.Core.run Sys2Proof.core n s

theorem runSteps_succ (n : Nat) (h : step s = .next t) : runSteps (n + 1) s = runSteps n t := by
  have hcore : Sys2Proof.core.step s = .next t := h
  simp only [runSteps, Host.Core.run, hcore]
  rfl

theorem issueCommand_idle (h : s.busy = false) : issueCommand s v = s.accepted v := by
  simp [issueCommand, h]

theorem step_cmdWrite (h : Idle s (cmdWrite v :: rest)) :
    step s = .next (State.accepted { s with events := rest } v) :=
  (step_regWrite h.cfgOk h.released (by decide) h.events).trans <|
    congrArg _ (issueCommand_idle (s := { s with events := rest }) h.notBusy)

theorem step_engine {p : Pending} (hok : s.cfg.ok = true) (hr : s.resetIn = false) (hp : s.pend = some p)
    (hdecode : decode p.cw = .command i) (hev : s.events = .engine :: rest) :
    step s = exec i { s with events := rest } := by
  rw [step_of_event hok hev, eventTurn, engineTurn_of_some (s := { s with events := rest }) hr hp, executeWord, hdecode]

/-- A command's accept and execute step. -/
theorem runSteps_command (n : Nat) (h : Idle s (cmdWrite v :: .engine :: rest)) (hdecode : decode v = .command i)
    (hexec : exec i (State.accepted { s with events := rest } v) = .next t) :
    runSteps (n + 2) s = runSteps n t := by
  have hengine := step_engine (s := State.accepted { s with events := .engine :: rest } v) h.cfgOk h.released rfl
    hdecode rfl
  rw [runSteps_succ _ (step_cmdWrite h), runSteps_succ n (hengine.trans hexec)]

end

/-- `s` after a successful command that has left `c` in CRC, with `evs` to come. -/
def crcState (s : State) (c : Word) (evs : List Event) : State := ended { s with crc := c, events := evs }

theorem decode_crcByte_word (b : Byte) : decode (BitVec.ofNat 32 (b.toNat * 256 + 2)) = .command (.crcByte b) := by
  rw [← encode_crcByte_toNat, BitVec.ofNat_toNat, BitVec.setWidth_eq]
  exact (decodeAndEncodeAgree.1 (.crcByte b)).2

section
variable {s : State} {rest : List Event} (hok : s.cfg.ok = true) (hr : s.resetIn = false)
include hok hr

theorem runSteps_crcInit (n : Nat) (hbusy : s.busy = false) (hev : s.events = cmdWrite 0x00000001 :: .engine :: rest) :
    runSteps (n + 2) s = runSteps n (crcState s crcOnes rest) :=
  runSteps_command n ⟨hok, hr, hbusy, hev⟩ (i := .crcInit) (by decide) (exec_crcInit rfl)

theorem runSteps_crcByte (n : Nat) (c : Word) (b : Byte) :
    runSteps (n + 2) (crcState s c (cmdWrite (BitVec.ofNat 32 (b.toNat * 256 + 2)) :: .engine :: rest)) =
      runSteps n (crcState s (crcStep c b) rest) :=
  runSteps_command n ⟨hok, hr, rfl, rfl⟩ (decode_crcByte_word b) (exec_crcByte rfl b)

/-- CRC_BYTE for each byte, from a state a CRC command has left. -/
theorem runSteps_crcBytes (n : Nat) (c : Word) (bytes : List Byte) :
    runSteps (n + 2 * bytes.length) (crcState s c
        (bytes.flatMap (fun b => [cmdWrite (BitVec.ofNat 32 (b.toNat * 256 + 2)), .engine]) ++ rest)) =
      runSteps n (crcState s (crcFold c bytes) rest) := by
  induction bytes generalizing c with
  | nil => rfl
  | cons b bs ih =>
    exact (runSteps_crcByte hok hr (n + 2 * bs.length) c b).trans (ih (crcStep c b))

theorem runSteps_crcFinal (n : Nat) (c : Word) :
    runSteps (n + 2) (crcState s c (cmdWrite 0x00000004 :: .engine :: rest)) =
      runSteps n { crcState s c rest with result := c ^^^ crcOnes } :=
  runSteps_command n ⟨hok, hr, rfl, rfl⟩ (i := .crcFinal) (by decide) (exec_crcFinal rfl)

end

/-- Settles O26: CRC_INIT seeds CRC, the bytes fold into it, and CRC_FINAL adds the final XOR. -/
theorem incrementalCrcIsTheChecksum : Obligations.IncrementalCrcIsTheChecksum := by
  unfold Obligations.IncrementalCrcIsTheChecksum
  intro s bytes rest hok hr hbusy hev
  refine ⟨{ crcState s (crcFold crcOnes bytes) rest with result := crc32 bytes }, ?_,
    rfl, rfl, rfl, rfl, rfl, rfl, rfl, rfl, rfl⟩
  simp only [incrementalCrc, List.append_assoc, List.cons_append, List.nil_append] at hev
  calc runSteps (2 * (bytes.length + 2)) s
    _ = runSteps (0 + 2 + 2 * bytes.length + 2) s := by congr 1; omega
    _ = runSteps (0 + 2 + 2 * bytes.length) (crcState s crcOnes _) := runSteps_crcInit hok hr _ hbusy hev
    _ = runSteps (0 + 2) (crcState s (crcFold crcOnes bytes) _) := runSteps_crcBytes hok hr _ _ _
    _ = runSteps 0 { crcState s (crcFold crcOnes bytes) rest with result := crc32 bytes } :=
      runSteps_crcFinal hok hr 0 _

end Sys2Proof.Proofs
end

section
namespace Sys2Proof.Proofs

open Sys2Proof.Machine Sys2Proof.Claims Sys2Proof.Laws

/-! ## Chunk types: letters, case bits and the properties read from them -/

section
variable {t : TypeBytes} {b : Byte}

theorem isAlpha_iff : isAlpha b = true ↔ alphabetic b := by
  simp [isAlpha, alphabetic]

theorem valid_iff : t.valid = true ↔ allAlphabetic t := by
  simp [TypeBytes.valid, allAlphabetic, isAlpha_iff, and_assoc]

theorem chunkTypeOf_bytes (t : TypeBytes) : chunkTypeOf t.bytes = if t.valid then some t else none := rfl

/-- A letter's case is bit 5: the two letter ranges lie 0x20 apart, each inside one block of 32 (R102). -/
theorem getLsbD_five_of_alphabetic (h : alphabetic b) : b.getLsbD 5 = false ↔ 0x41 ≤ b.toNat ∧ b.toNat ≤ 0x5A := by
  have hbit : b.getLsbD 5 = decide (b.toNat / 2 ^ 5 % 2 = 1) := Nat.testBit_eq_decide_div_mod_eq
  rw [hbit, decide_eq_false_iff_not]
  rcases h with h | h <;> omega

theorem upper_iff : upper b = true ↔ b.getLsbD 5 = false := by
  simp [upper]

theorem safeToCopy_iff : t.safeToCopy = true ↔ t.b3.getLsbD 5 = true := by
  simp [TypeBytes.safeToCopy, upper]

theorem isValidType_iff : t.isValidType = true ↔ t.b0.getLsbD 5 = false ∧ t.b2.getLsbD 5 = false := by
  rw [TypeBytes.isValidType, Bool.and_eq_true]
  exact and_congr upper_iff upper_iff

end

/-! ## Loading CTYPE -/

section
variable {s : State} {p : Pending} {t : TypeBytes}

theorem loadType_of_allAlphabetic (h : allAlphabetic t) :
    loadType s t.bytes = .next (ended { s with ctype := some t }) := by
  rw [loadType, chunkTypeOf_bytes, if_pos (valid_iff.mpr h)]
  rfl

theorem loadType_of_not_allAlphabetic (h : ¬ allAlphabetic t) :
    loadType s t.bytes = .next (failed s .invalidChunkType .success 0) := by
  rw [loadType, chunkTypeOf_bytes, if_neg (valid_iff.not.mpr h)]
  rfl

theorem exec_typeLoad (hp : s.pend = some p) : exec .typeLoad s = loadType s (unpack4 p.key).bytes :=
  whenPending_some hp

theorem exec_typeLoadText_of_outside (hp : s.pend = some p) (h : inputOutside s p) :
    exec .typeLoadText s = .next (failed s .bufferRange .success 0) :=
  (whenPending_some hp).trans (checkRange_of_gt h)

theorem exec_typeLoadText_of_len_ne_four (hp : s.pend = some p) (h : ¬ inputOutside s p) (hlen : p.len ≠ 4) :
    exec .typeLoadText s = .next (failed s .invalidChunkType .success 0) :=
  (whenPending_some hp).trans <| (checkRange_of_le (Nat.le_of_not_lt h)).trans <|
    if_pos fun h4 => hlen (BitVec.eq_of_toNat_eq h4)

/-- With LEN = 4, TYPE_LOAD_TEXT loads the bytes of its input range. -/
theorem exec_typeLoadText_of_len_four (hp : s.pend = some p) (hlen : p.len.toNat = 4) :
    exec .typeLoadText s = onInput s (loadType s) := by
  have hload : exec .typeLoadText s = checkRange s p _ := whenPending_some hp
  have hinput : onInput s (loadType s) = checkRange s p _ := whenPending_some hp
  rw [hload, hinput, if_neg (not_not.mpr hlen), hlen]

end

/-- Settles O28: a key of packed value `packed t` unpacks to `t`, which `loadType` accepts or refuses. -/
theorem typeLoadFromKey : Obligations.TypeLoadFromKey := by
  unfold Obligations.TypeLoadFromKey
  refine ⟨by decide, fun s p t hp hkey => ?_⟩
  rw [exec_typeLoad hp, unpack4_of_toNat hkey]
  exact ⟨loadType_of_allAlphabetic, loadType_of_not_allAlphabetic⟩

/-- Settles O29: range and LEN are checked first; with LEN = 4, `loadType` gets what `onInput` hands it. -/
theorem typeLoadFromText : Obligations.TypeLoadFromText := by
  unfold Obligations.TypeLoadFromText
  refine ⟨by decide, fun s p hp => ⟨exec_typeLoadText_of_outside hp, exec_typeLoadText_of_len_ne_four hp,
    fun hlen hmissing => ?_, fun t hinput => ?_⟩⟩
  · rw [exec_typeLoadText_of_len_four hp (by simp [hlen])]
    exact onInput_of_missing hp hmissing
  · have ⟨_, hlen, _⟩ := hinput
    rw [exec_typeLoadText_of_len_four hp hlen.symm, onInput_of_inputIs hp hinput]
    exact ⟨loadType_of_allAlphabetic, loadType_of_not_allAlphabetic⟩

/-! ## The commands that need CTYPE -/

section
variable {s : State} {p : Pending} {t : TypeBytes}

/-- The check that opens TYPE_IS_CRITICAL to TYPE_TEXT: `if TV = 0: raise NoChunkType` (R107 to R113). -/
theorem whenType_of_none {k : TypeBytes → Result} (hp : s.pend = some p) (hty : s.ctype = none) :
    (whenPending s fun _ => needType s k) = .next (failed s .noChunkType .success 0) :=
  (whenPending_some hp).trans (needType_none hty)

theorem whenType_of_some {k : TypeBytes → Result} (hp : s.pend = some p) (hty : s.ctype = some t) :
    (whenPending s fun _ => needType s k) = k t :=
  (whenPending_some hp).trans (needType_some hty)

/-- A query answers 1 exactly when its property, spelled as `c`, holds of CTYPE. -/
theorem query_of_iff {P : TypeBytes → Bool} {c : Prop} [Decidable c] (hp : s.pend = some p) (hty : s.ctype = some t)
    (hP : P t = true ↔ c) :
    (whenPending s fun _ => queryType s P) = .next (ended { s with result := if c then 1 else 0 }) := by
  have hword : boolWord (P t) = if c then 1 else 0 := if_congr hP rfl rfl
  rw [← hword]
  exact whenType_of_some hp hty

end

/-- Settles O30: one property per query; all five raise NoChunkType by the same check. -/
theorem typeQueriesReadTheCaseBits : Obligations.TypeQueriesReadTheCaseBits := by
  unfold Obligations.TypeQueriesReadTheCaseBits
  refine ⟨by decide, by decide, by decide, by decide, by decide, fun b => getLsbD_five_of_alphabetic,
    fun s p hp => ⟨fun t hty => ?_, fun hty i hi => ?_⟩⟩
  · exact ⟨query_of_iff hp hty upper_iff, query_of_iff hp hty upper_iff, query_of_iff hp hty upper_iff,
      query_of_iff hp hty safeToCopy_iff, query_of_iff hp hty isValidType_iff⟩
  · simp only [List.mem_cons, List.not_mem_nil, or_false] at hi
    rcases hi with rfl | rfl | rfl | rfl | rfl <;> exact whenType_of_none hp hty

/-- Settles O31: RESULT is Pack4 of CTYPE, and OBUF reads as `read_output` says. -/
theorem typeBytesAndText : Obligations.TypeBytesAndText := by
  unfold Obligations.TypeBytesAndText
  refine ⟨by decide, by decide, fun s p hp => ⟨fun t hty => ⟨?_, ?_⟩, fun hty => ?_⟩⟩
  · exact ⟨pack4 t, pack4_toNat t, whenType_of_some hp hty⟩
  · exact ⟨(s.output t.bytes).finished, whenType_of_some hp hty, rfl, read_output s t.bytes⟩
  · exact ⟨whenType_of_none hp hty, whenType_of_none hp hty⟩

end Sys2Proof.Proofs
end

section
namespace Sys2Proof.Proofs

open Sys2Proof.Machine Sys2Proof.Claims Sys2Proof.Laws

/-! ## Big-endian words (R7) -/

theorem be32_eq_bigEndian (v : Word) : be32 v = bigEndian v.toNat := by
  simp only [be32, bigEndian, BitVec.extractLsb', Nat.shiftRight_eq_div_pow, pow_zero, Nat.div_one]

theorem unbe32_four (a b c d : Byte) : unbe32 [a, b, c, d] = packed ⟨a, b, c, d⟩ := by
  simp only [unbe32, packed, List.foldl_cons, List.foldl_nil]
  omega

/-- The big-endian form of a number has no other value. -/
theorem bigEndian_eq_iff {n : Nat} {a b c d : Byte} (h : n < 2 ^ 32) :
    bigEndian n = [a, b, c, d] ↔ packed ⟨a, b, c, d⟩ = n := by
  have := a.isLt
  have := b.isLt
  have := c.isLt
  have := d.isLt
  simp only [bigEndian, packed, List.cons.injEq, BitVec.toNat_eq, BitVec.toNat_ofNat, and_true]
  omega

/-- `unbe32` reads a 4-byte field back as the one word whose `be32` it is. -/
theorem unbe32_eq_toNat_iff {f : List Byte} (hf : f.length = 4) (v : Word) : unbe32 f = v.toNat ↔ f = be32 v := by
  obtain ⟨a, b, c, d, rfl⟩ := List.length_eq_four.mp hf
  rw [unbe32_four, be32_eq_bigEndian, eq_comm (a := [a, b, c, d]), bigEndian_eq_iff v.isLt]

theorem be32_inj {v w : Word} : be32 v = be32 w ↔ v = w := by
  rw [← unbe32_eq_toNat_iff rfl, (unbe32_eq_toNat_iff rfl v).mpr rfl, BitVec.toNat_inj]

/-! ## ParseChunk by the fields of its input -/

theorem slice_append_middle {r₁ r₂ r₃ : List Byte} {i j : Nat} (hi : r₁.length = i) (hj : r₁.length + r₂.length = j) :
    slice (r₁ ++ r₂ ++ r₃) i j = r₂ := by
  subst hi hj
  simp [slice]

/-- The four fields of R123's wire form: length, type, data, CRC. -/
def record (h : List Byte) (t : TypeBytes) (d f : List Byte) : List Byte := h ++ t.bytes ++ d ++ f

theorem serialize_eq_record (c : Chunk) : c.serialize = record (be32 c.length) c.type c.data (be32 c.crc) := rfl

theorem record_eq_append (h : List Byte) (t : TypeBytes) (d f : List Byte) :
    record h t d f = h ++ (t.bytes ++ d ++ f) := by
  simp only [record, List.append_assoc]

theorem exists_append_of_le_length {r : List Byte} {n : Nat} (hn : n ≤ r.length) :
    ∃ r₁ r₂, r₁.length = n ∧ r = r₁ ++ r₂ :=
  ⟨r.take n, r.drop n, List.length_take_of_le hn, (List.take_append_drop n r).symm⟩

/-- Any 12 bytes or more are the four fields of a record. -/
theorem exists_record {r : List Byte} (hr : 12 ≤ r.length) :
    ∃ h t d f, h.length = 4 ∧ f.length = 4 ∧ r = record h t d f := by
  obtain ⟨h, r₁, hh, rfl⟩ := exists_append_of_le_length (r := r) (n := 4) (by omega)
  rw [List.length_append] at hr
  obtain ⟨ty, r₂, hty, rfl⟩ := exists_append_of_le_length (r := r₁) (n := 4) (by omega)
  rw [List.length_append] at hr
  obtain ⟨d, f, hd, rfl⟩ := exists_append_of_le_length (r := r₂) (n := r₂.length - 4) (by omega)
  rw [List.length_append] at hr hd
  obtain ⟨b0, b1, b2, b3, rfl⟩ := List.length_eq_four.mp hty
  exact ⟨h, ⟨b0, b1, b2, b3⟩, d, f, hh, by omega, by simp [record, TypeBytes.bytes]⟩

section
variable {cfg : Params} {h d f : List Byte} {t : TypeBytes} (hh : h.length = 4) (hf : f.length = 4)
include hh hf

/-- R124 by the fields of its input: the length field decides nothing. -/
theorem parseChunk_record : parseChunk cfg (record h t d f) =
    if cfg.maxData < d.length then .error .oversizedPayload
    else if t.valid = false then .error .invalidChunkType
    else if f ≠ be32 (crc32 (t.bytes ++ d)) then .error .crcMismatch
    else .ok ⟨t, d⟩ := by
  have ht : t.bytes.length = 4 := rfl
  have hlen : (record h t d f).length = d.length + 12 := by
    simp only [record, List.length_append]; omega
  have htype : slice (record h t d f) 4 8 = t.bytes := by
    rw [record, List.append_assoc]
    exact slice_append_middle hh (by omega)
  have hdata : slice (record h t d f) 8 (d.length + 8) = d :=
    slice_append_middle (by simp only [List.length_append]; omega) (by simp only [List.length_append]; omega)
  have hcrc : slice (record h t d f) (d.length + 8) (d.length + 12) = f := by
    rw [← List.append_nil (record h t d f)]
    exact slice_append_middle (by simp only [List.length_append]; omega) (by simp only [List.length_append]; omega)
  unfold parseChunk
  rw [hlen, if_neg (by omega), Nat.add_sub_cancel, show d.length + 12 - 4 = d.length + 8 by omega, htype, hdata, hcrc,
    chunkTypeOf_bytes]
  cases t.valid <;> simp [unbe32_eq_toNat_iff hf]

theorem parseChunk_record_of_oversized (hd : cfg.maxData < d.length) :
    parseChunk cfg (record h t d f) = .error .oversizedPayload := by
  rw [parseChunk_record hh hf, if_pos hd]

variable (hd : d.length ≤ cfg.maxData)
include hd

theorem parseChunk_record_of_invalid (ht : ¬ allAlphabetic t) :
    parseChunk cfg (record h t d f) = .error .invalidChunkType := by
  rw [parseChunk_record hh hf, if_neg (by omega), if_pos (Bool.eq_false_iff.mpr (valid_iff.not.mpr ht))]

theorem parseChunk_record_of_mismatch (ht : allAlphabetic t) (hcrc : f ≠ be32 (crc32 (t.bytes ++ d))) :
    parseChunk cfg (record h t d f) = .error .crcMismatch := by
  rw [parseChunk_record hh hf, if_neg (by omega), if_neg (by simp [valid_iff.mpr ht]), if_pos hcrc]

theorem parseChunk_record_of_match (ht : allAlphabetic t) (hcrc : f = be32 (crc32 (t.bytes ++ d))) :
    parseChunk cfg (record h t d f) = .ok ⟨t, d⟩ := by
  rw [parseChunk_record hh hf, if_neg (by omega), if_neg (by simp [valid_iff.mpr ht]), if_neg (not_not.mpr hcrc)]

end

/-- Settles O33: one lemma per outcome of `parseChunk_record`. -/
theorem parseChunkChecksInOrder : Obligations.ParseChunkChecksInOrder := by
  unfold Obligations.ParseChunkChecksInOrder
  refine fun cfg => ⟨fun r hr => if_pos hr, fun h t d f hh hf => ?_⟩
  rw [← be32_eq_bigEndian]
  exact ⟨parseChunk_record_of_oversized hh hf, parseChunk_record_of_invalid hh hf, parseChunk_record_of_mismatch hh hf,
    parseChunk_record_of_match hh hf⟩

theorem wf_iff {cfg : Params} {c : Chunk} : c.wf cfg = true ↔ allAlphabetic c.type ∧ c.data.length ≤ cfg.maxData := by
  simp [Chunk.wf, valid_iff]

/-- ParseChunk answers a chunk value exactly on its wire form, up to the length field (R124). -/
theorem parseChunk_eq_ok_iff {cfg : Params} {r : List Byte} {c : Chunk} : parseChunk cfg r = .ok c ↔
    c.wf cfg = true ∧ ∃ h, h.length = 4 ∧ r = record h c.type c.data (be32 c.crc) := by
  constructor
  · intro hparse
    refine ⟨parseChunk_wf hparse, ?_⟩
    by_cases hr : r.length < 12
    · simp [parseChunk, hr] at hparse
    · obtain ⟨h, t, d, f, hh, hf, rfl⟩ := exists_record (Nat.le_of_not_lt hr)
      rw [parseChunk_record hh hf] at hparse
      split_ifs at hparse with hd ht hcrc
      cases hparse
      exact ⟨h, hh, by rw [not_not.mp hcrc]; rfl⟩
  · rintro ⟨hwf, h, hh, rfl⟩
    obtain ⟨ht, hd⟩ := wf_iff.mp hwf
    exact parseChunk_record_of_match hh rfl hd ht rfl

/-- The length field, where it does not wrap (log entry 25). -/
theorem be32_length {c : Chunk} (hlen : c.data.length < 2 ^ 32) : be32 c.length = bigEndian c.data.length := by
  rw [be32_eq_bigEndian, Chunk.length, BitVec.toNat_ofNat, Nat.mod_eq_of_lt hlen]

theorem length_lt_of_wf {cfg : Params} {c : Chunk} (hok : cfg.ok = true) (hwf : c.wf cfg = true) :
    c.data.length < 2 ^ 32 := by
  obtain ⟨-, hlen⟩ := wf_iff.mp hwf
  have hmax : cfg.maxData ≤ 2 ^ 32 - 1 := by
    simp only [Params.ok, Bool.and_eq_true, decide_eq_true_eq] at hok
    omega
  omega

/-- Settles O40: a parsed input is `record h …`, and serializing puts the true length in the place of `h`. -/
theorem chunkRoundTrip : Obligations.ChunkRoundTrip := by
  unfold Obligations.ChunkRoundTrip
  refine fun cfg hok => ⟨fun c hwf => parseChunk_eq_ok_iff.mpr ⟨hwf, _, rfl, serialize_eq_record c⟩,
    fun a b c d more ch hparse => ?_⟩
  obtain ⟨hwf, h, hh, hr⟩ := parseChunk_eq_ok_iff.mp hparse
  have hlen := length_lt_of_wf hok hwf
  obtain ⟨rfl, hmore⟩ := List.append_inj (s₁ := [a, b, c, d]) (hr.trans (record_eq_append ..)) hh.symm
  have hdata : more.length = ch.data.length + 8 := by
    simp only [hmore, List.length_append, TypeBytes.bytes, be32, List.length_cons, List.length_nil]
    omega
  have hser : ch.serialize = bigEndian ch.data.length ++ more := by
    rw [serialize_eq_record, record_eq_append, be32_length hlen, hmore]
  constructor
  · calc ch.serialize = [a, b, c, d] ++ more
      _ ↔ bigEndian ch.data.length = [a, b, c, d] := by rw [hser, List.append_left_inj]
      _ ↔ packed ⟨a, b, c, d⟩ = ch.data.length := bigEndian_eq_iff hlen
      _ ↔ packed ⟨a, b, c, d⟩ + 12 = more.length + 4 := by omega
  · rw [hser, hdata]
    rfl

end Sys2Proof.Proofs
end

section
namespace Sys2Proof.Proofs

open Sys2Proof.Machine Sys2Proof.Claims Sys2Proof.Laws

/-! ## The CRC sees every changed byte -/

/-- The polynomial's top bit is set, so an iteration puts the bit it shifts out into the top bit. -/
theorem getLsbD_crcShift_top (x : Word) : (crcShift x).getLsbD 31 = x.getLsbD 0 := by
  rw [crcShift_eq]
  cases h : x.getLsbD 0 <;> simp [crcPoly]

theorem crcShift_injective : Function.Injective crcShift := by
  intro x y h
  have hlow : x.getLsbD 0 = y.getLsbD 0 := by
    rw [← getLsbD_crcShift_top, h, getLsbD_crcShift_top]
  have hrest : x >>> 1 = y >>> 1 := by
    rwa [crcShift_eq, crcShift_eq y, hlow, BitVec.xor_left_inj] at h
  apply BitVec.eq_of_getLsbD_eq
  rintro (_ | i) hi
  · exact hlow
  · simpa [Nat.add_comm] using congrArg (BitVec.getLsbD · i) hrest

theorem crcLoop_injective (n : Nat) : Function.Injective (crcLoop n) := by
  have h : crcLoop n = crcShift^[n] := funext fun c => crcLoop_eq_iterate c n
  exact h ▸ crcShift_injective.iterate n

theorem crcStep_left_injective (b : Byte) : Function.Injective (crcStep · b) := by
  intro c c' h
  simp only [crcStep_eq_crcLoop] at h
  exact (BitVec.xor_left_inj _).mp (crcLoop_injective 8 h)

theorem crcStep_right_injective (c : Word) : Function.Injective (crcStep c) := by
  intro b b' h
  rw [crcStep_eq_crcLoop, crcStep_eq_crcLoop] at h
  have hword : b.setWidth 32 = b'.setWidth 32 := (BitVec.xor_right_inj _).mp (crcLoop_injective 8 h)
  simpa using congrArg (BitVec.setWidth 8) hword

theorem crcFold_injective (s : List Byte) : Function.Injective (crcFold · s) := by
  induction s with
  | nil => exact fun _ _ h => h
  | cons b rest ih => exact ih.comp (crcStep_left_injective b)

theorem crcFold_set_ne {s : List Byte} {i : Nat} {b x : Byte} (c : Word) (hb : s[i]? = some b) (hx : x ≠ b) :
    crcFold c (s.set i x) ≠ crcFold c s := by
  induction s generalizing c i with
  | nil => cases hb
  | cons y rest ih =>
    cases i with
    | zero =>
      cases hb
      exact fun h => hx (crcStep_right_injective c (crcFold_injective rest h))
    | succ i => exact ih (crcStep c y) hb

/-- A byte replaced by another changes CRC32 (R126). -/
theorem crc32_set_ne {s : List Byte} {i : Nat} {b x : Byte} (hb : s[i]? = some b) (hx : x ≠ b) :
    crc32 (s.set i x) ≠ crc32 s :=
  fun h => crcFold_set_ne crcOnes hb hx ((BitVec.xor_left_inj _).mp h)

/-! ## A chunk's wire form with one byte replaced (R126) -/

theorem serialize_eq_append (c : Chunk) : c.serialize = be32 c.length ++ (c.type.bytes ++ c.data ++ be32 c.crc) :=
  record_eq_append ..

/-- Replacing a byte of type and data leaves a type and data of the same lengths. -/
theorem exists_payload_set {t : TypeBytes} {i : Nat} (d : List Byte) (x : Byte) (ht : allAlphabetic t) :
    ∃ (t' : TypeBytes) (d' : List Byte), (t.bytes ++ d).set i x = t'.bytes ++ d' ∧ d'.length = d.length ∧
      (allAlphabetic t' ↔ (i < 4 → alphabetic x)) := by
  obtain ⟨h0, h1, h2, h3⟩ := ht
  match i with
  | 0 => exact ⟨⟨x, t.b1, t.b2, t.b3⟩, d, rfl, rfl, by simp [allAlphabetic, *]⟩
  | 1 => exact ⟨⟨t.b0, x, t.b2, t.b3⟩, d, rfl, rfl, by simp [allAlphabetic, *]⟩
  | 2 => exact ⟨⟨t.b0, t.b1, x, t.b3⟩, d, rfl, rfl, by simp [allAlphabetic, *]⟩
  | 3 => exact ⟨⟨t.b0, t.b1, t.b2, x⟩, d, rfl, rfl, by simp [allAlphabetic, *]⟩
  | k + 4 => exact ⟨t, d.set k x, rfl, List.length_set, by simp [allAlphabetic, *]⟩

theorem set_ne_self {s : List Byte} {i : Nat} {b x : Byte} (hb : s[i]? = some b) (hx : x ≠ b) : s.set i x ≠ s := by
  obtain ⟨hi, rfl⟩ := List.getElem?_eq_some_iff.mp hb
  intro h
  have hget := List.getElem?_set_self (a := x) hi
  rw [h, hb] at hget
  exact hx (Option.some.inj hget).symm

section
variable {cfg : Params} {c : Chunk} {i : Nat} {b x : Byte} (hwf : c.wf cfg = true)
include hwf

theorem parseChunk_set_length (hi : i < 4) : parseChunk cfg (c.serialize.set i x) = .ok c := by
  refine parseChunk_eq_ok_iff.mpr ⟨hwf, (be32 c.length).set i x, List.length_set, ?_⟩
  rw [serialize_eq_append, List.set_append_left _ _ hi, record_eq_append]

/-- A byte of type or data: the CRC field no longer fits, and a type byte that is no letter is seen before that. -/
theorem parseChunk_set_payload (hb : (c.type.bytes ++ c.data)[i]? = some b) (hx : x ≠ b) :
    (i < 4 → ¬ alphabetic x → parseChunk cfg (c.serialize.set (4 + i) x) = .error .invalidChunkType) ∧
      ((i < 4 → alphabetic x) → parseChunk cfg (c.serialize.set (4 + i) x) = .error .crcMismatch) := by
  obtain ⟨ht, hd⟩ := wf_iff.mp hwf
  obtain ⟨hi, -⟩ := List.getElem?_eq_some_iff.mp hb
  obtain ⟨t, d, hset, hlen, halpha⟩ := exists_payload_set (i := i) c.data x ht
  have hrec : c.serialize.set (4 + i) x = record (be32 c.length) t d (be32 c.crc) :=
    calc c.serialize.set (4 + i) x
      _ = be32 c.length ++ (c.type.bytes ++ c.data ++ be32 c.crc).set i x := by
        rw [serialize_eq_append, List.set_append_right _ _ (Nat.le_add_right 4 i)]
        exact congrArg _ (congrArg (List.set _ · x) (Nat.add_sub_cancel_left 4 i))
      _ = record (be32 c.length) t d (be32 c.crc) := by
        rw [List.set_append_left _ _ hi, hset, record_eq_append]
  have hcrc : be32 c.crc ≠ be32 (crc32 (t.bytes ++ d)) := by
    rw [be32_inj.ne, ← hset]
    exact (crc32_set_ne hb hx).symm
  rw [hrec]
  exact ⟨fun h4 hx => parseChunk_record_of_invalid rfl rfl (hlen.trans_le hd) fun h => hx (halpha.mp h h4),
    fun hx => parseChunk_record_of_mismatch rfl rfl (hlen.trans_le hd) (halpha.mpr hx) hcrc⟩

theorem parseChunk_set_crc {k : Nat} (hi : i = 8 + c.data.length + k) (hb : (be32 c.crc)[k]? = some b) (hx : x ≠ b) :
    parseChunk cfg (c.serialize.set i x) = .error .crcMismatch := by
  obtain ⟨ht, hd⟩ := wf_iff.mp hwf
  have hbefore : (be32 c.length ++ c.type.bytes ++ c.data).length = 8 + c.data.length := by
    rw [List.length_append]
    rfl
  rw [Chunk.serialize, List.set_append_right _ _ (by omega), hbefore, hi, Nat.add_sub_cancel_left]
  exact parseChunk_record_of_mismatch rfl List.length_set hd ht (set_ne_self hb hx)

end

/-! ## Single-bit flips -/

theorem xor_two_pow_ne {b : Byte} {j : Nat} (hj : j < 8) : b ^^^ BitVec.ofNat 8 (2 ^ j) ≠ b := by
  have hbit : BitVec.ofNat 8 (2 ^ j) ≠ 0 := by interval_cases j <;> decide
  exact fun h => hbit ((BitVec.xor_right_inj b).mp (h.trans BitVec.xor_zero.symm))

/-- Bit 5 is a letter's case (R102). -/
theorem alphabetic_flip_five {b : Byte} (h : alphabetic b) : alphabetic (b ^^^ BitVec.ofNat 8 (2 ^ 5)) := by
  rw [← isAlpha_iff] at h ⊢
  revert b
  decide +kernel

theorem alphabetic_of_mem_bytes {t : TypeBytes} {b : Byte} (ht : allAlphabetic t) (hb : b ∈ t.bytes) : alphabetic b := by
  obtain ⟨h0, h1, h2, h3⟩ := ht
  simp only [TypeBytes.bytes, List.mem_cons, List.not_mem_nil, or_false] at hb
  rcases hb with rfl | rfl | rfl | rfl <;> assumption

/-- Settles O41: the length field is not looked at, and every other changed byte makes the CRC field wrong. -/
theorem singleBitFlips : Obligations.SingleBitFlips := by
  unfold Obligations.SingleBitFlips
  intro cfg c i j b _ hwf hj hb flipped r
  have hx : flipped ≠ b := xor_two_pow_ne hj
  have hlen : (c.type.bytes ++ c.data).length = 4 + c.data.length := List.length_append
  by_cases hi : i < 4
  · exact ⟨fun _ => parseChunk_set_length hwf hi, by omega, by omega, by omega, by omega⟩
  obtain ⟨k, rfl⟩ := Nat.exists_eq_add_of_le (Nat.le_of_not_lt hi)
  rw [serialize_eq_append, List.getElem?_append_right (Nat.le_add_right 4 k)] at hb
  replace hb : (c.type.bytes ++ c.data ++ be32 c.crc)[k]? = some b := by
    rwa [show 4 + k - (be32 c.length).length = k from Nat.add_sub_cancel_left 4 k] at hb
  by_cases hk : k < 4 + c.data.length
  · rw [List.getElem?_append_left (hlen ▸ hk)] at hb
    obtain ⟨hinvalid, hmismatch⟩ := parseChunk_set_payload hwf hb hx
    refine ⟨by omega, fun _ _ => hinvalid (by omega), fun _ _ ha => hmismatch fun _ => ha, fun _ h8 h5 => ?_,
      fun _ => hmismatch (by omega)⟩
    rw [List.getElem?_append_left (Nat.lt_of_add_lt_add_left h8)] at hb
    subst h5
    exact alphabetic_flip_five (alphabetic_of_mem_bytes (wf_iff.mp hwf).1 (List.mem_of_getElem? hb))
  · rw [List.getElem?_append_right (by omega), hlen] at hb
    exact ⟨by omega, by omega, by omega, by omega, fun _ => parseChunk_set_crc hwf (by omega) hb hx⟩

end Sys2Proof.Proofs
end

section
namespace Sys2Proof.Proofs

open Sys2Proof.Machine Sys2Proof.Claims Sys2Proof.Laws

/-! ## UTF-8: the scanner and the rows of R127's table -/

/-- A byte lies in a range, as `utf8From` asks of the next byte it wants. -/
def InRange (range : Nat × Nat) (b : Byte) : Prop := range.1 ≤ b.toNat ∧ b.toNat ≤ range.2

/-- The rows of `utf8Follow`, each by its own first bytes: its tests are tried in order and no two overlap (R127). -/
theorem utf8Follow_eq_some_iff {b : Byte} {follow : List (Nat × Nat)} :
    utf8Follow b = some follow ↔
      (b.toNat ≤ 0x7F ∧ [] = follow) ∨
      ((0xC2 ≤ b.toNat ∧ b.toNat ≤ 0xDF) ∧ [(0x80, 0xBF)] = follow) ∨
      (b.toNat = 0xE0 ∧ [(0xA0, 0xBF), (0x80, 0xBF)] = follow) ∨
      ((0xE1 ≤ b.toNat ∧ b.toNat ≤ 0xEC) ∧ [(0x80, 0xBF), (0x80, 0xBF)] = follow) ∨
      (b.toNat = 0xED ∧ [(0x80, 0x9F), (0x80, 0xBF)] = follow) ∨
      ((0xEE ≤ b.toNat ∧ b.toNat ≤ 0xEF) ∧ [(0x80, 0xBF), (0x80, 0xBF)] = follow) ∨
      (b.toNat = 0xF0 ∧ [(0x90, 0xBF), (0x80, 0xBF), (0x80, 0xBF)] = follow) ∨
      ((0xF1 ≤ b.toNat ∧ b.toNat ≤ 0xF3) ∧ [(0x80, 0xBF), (0x80, 0xBF), (0x80, 0xBF)] = follow) ∨
      (b.toNat = 0xF4 ∧ [(0x80, 0x8F), (0x80, 0xBF), (0x80, 0xBF)] = follow) := by
  constructor
  · have forgetFailed : ∀ {row failed next rows : Prop}, (next → rows) → row ∨ failed ∧ next → row ∨ rows :=
      fun later => Or.imp_right fun ⟨_, h⟩ => later h
    simp only [utf8Follow, ite_eq_iff, Option.some.injEq, reduceCtorEq, and_false, or_false]
    exact forgetFailed <| forgetFailed <| forgetFailed <| forgetFailed <| forgetFailed <| forgetFailed <|
      forgetFailed <| Or.imp_right And.right
  · rintro (⟨h, rfl⟩ | ⟨h, rfl⟩ | ⟨h, rfl⟩ | ⟨h, rfl⟩ | ⟨h, rfl⟩ | ⟨h, rfl⟩ | ⟨h, rfl⟩ | ⟨h, rfl⟩ | ⟨h, rfl⟩) <;>
      simp (disch := omega) only [utf8Follow, if_pos, if_neg]

/-- A row is a first byte and bytes in the ranges it asks for: one length of sequence at a time, and in the rows of three
and of four bytes the ranges of the last bytes, which the table states once, are handed to each row. -/
theorem utf8Row_cons_iff {b : Byte} {p : List Byte} :
    utf8Row (b :: p) ↔ ∃ follow, utf8Follow b = some follow ∧ List.Forall₂ InRange follow p := by
  have hclash : ∀ r rs, ¬ List.Forall₂ InRange (r :: rs) [] := nofun
  rcases p with _ | ⟨c, _ | ⟨d, _ | ⟨e, _ | ⟨x, xs⟩⟩⟩⟩ <;>
    simp only [utf8Row, utf8Follow_eq_some_iff, or_and_right, exists_or, and_assoc, exists_and_left, exists_eq_left',
      List.map_cons, List.map_nil, List.forall₂_cons, List.forall₂_nil_left_iff, hclash, InRange,
      reduceCtorEq, and_false, or_false, false_or, and_true]
  · grind
  · grind

/-- Bytes in the wanted ranges bring the scanner to the start of a sequence. -/
theorem utf8From_append {want : List (Nat × Nat)} {p : List Byte} (s : List Byte) (h : List.Forall₂ InRange want p) :
    utf8From want (p ++ s) = utf8From [] s := by
  induction h with
  | nil => rfl
  | cons hb _ ih => simpa [utf8From, ih] using fun _ => by simpa [InRange] using hb

theorem utf8Valid_row_append {p : List Byte} (s : List Byte) (h : utf8Row p) : utf8Valid (p ++ s) = utf8Valid s := by
  cases p with
  | nil => simp [utf8Row] at h
  | cons b p =>
    obtain ⟨follow, hfollow, hp⟩ := utf8Row_cons_iff.mp h
    simpa [utf8Valid, utf8From, hfollow] using utf8From_append s hp

/-- What the scanner accepts: the bytes it still wants, then whole rows. -/
theorem utf8From_splits {want : List (Nat × Nat)} {s : List Byte} (h : utf8From want s = true) :
    ∃ (p : List Byte) (parts : List (List Byte)),
      p ++ parts.flatten = s ∧ List.Forall₂ InRange want p ∧ ∀ q ∈ parts, utf8Row q := by
  fun_induction utf8From want s with
  | case1 => exact ⟨[], [], rfl, .nil, by simp⟩
  | case2 => cases h
  | case3 => simp at h
  | case4 b rest follow hfollow ih =>
    obtain ⟨p, parts, rfl, hp, hparts⟩ := ih h
    exact ⟨[], (b :: p) :: parts, rfl, .nil,
      List.forall_mem_cons.mpr ⟨utf8Row_cons_iff.mpr ⟨follow, hfollow, hp⟩, hparts⟩⟩
  | case5 b rest lo hi more ih =>
    obtain ⟨hb, hrest⟩ := Bool.and_eq_true_iff.mp h
    obtain ⟨p, parts, rfl, hp, hparts⟩ := ih hrest
    exact ⟨b :: p, parts, rfl, .cons (by simpa [InRange] using hb) hp, hparts⟩

/-- Settles O37: the scanner's state is what the row begun still wants, so it splits off one row at a time. -/
theorem utf8ValidIsTheTable : Obligations.Utf8ValidIsTheTable := by
  unfold Obligations.Utf8ValidIsTheTable
  refine fun s => ⟨fun h => ?_, ?_⟩
  · obtain ⟨p, parts, hflat, hp, hrows⟩ := utf8From_splits h
    cases hp
    exact ⟨parts, hflat, hrows⟩
  · rintro ⟨parts, rfl, hrows⟩
    induction parts with
    | nil => rfl
    | cons p parts ih =>
      obtain ⟨hp, hparts⟩ := List.forall_mem_cons.mp hrows
      rw [List.flatten_cons, utf8Valid_row_append _ hp, ih hparts]

end Sys2Proof.Proofs
end

section
namespace Sys2Proof.Proofs

open Sys2Proof.Machine Sys2Proof.Claims Sys2Proof.Laws

/-! ## The wire form, and CHUNK_SERIALIZE -/

theorem serialize_eq_wireForm {c : Chunk} (hlen : c.data.length < 2 ^ 32) : c.serialize = wireForm c := by
  rw [Chunk.serialize, be32_length hlen, be32_eq_bigEndian]
  rfl

section
variable {s : State} {p : Pending} {c : Chunk}

/-- The check that opens CHUNK_LENGTH to CHUNK_SERIALIZE: `if WV = 0: raise NoChunk` (R130 to R135). -/
theorem whenChunk_of_none {k : Chunk → Result} (hp : s.pend = some p) (hw : s.w = none) :
    (whenPending s fun _ => needChunk s k) = .next (failed s .noChunk .success 0) :=
  (whenPending_some hp).trans (needChunk_none hw)

theorem whenChunk_of_some {k : Chunk → Result} (hp : s.pend = some p) (hw : s.w = some c) :
    (whenPending s fun _ => needChunk s k) = k c :=
  (whenPending_some hp).trans (needChunk_some hw)

end

/-- Settles O39: the wire form is `Chunk.serialize`, and OBUF reads as `read_output` says. -/
theorem chunkSerializeOfW : Obligations.ChunkSerializeOfW := by
  unfold Obligations.ChunkSerializeOfW
  refine ⟨by decide, fun c hlen => ⟨serialize_eq_wireForm hlen, ?_⟩, fun s p hp => ⟨whenChunk_of_none hp,
    fun c hw hlen => ⟨fun hfull => ?_, fun hfit => ?_⟩⟩⟩
  · rw [← serialize_eq_wireForm hlen, length_serialize]
  · exact (whenChunk_of_some hp hw).trans (checkOutput_of_gt hfull)
  · refine ⟨(s.output c.serialize).finished, (whenChunk_of_some hp hw).trans (checkOutput_of_le hfit), ?_, ?_⟩
    · rw [← length_serialize]
      rfl
    · rw [← serialize_eq_wireForm hlen]
      exact read_output s c.serialize

/-! ## CHUNK_BUILD and CHUNK_PARSE -/

/-- Settles O32: type, range and length are checked first, and MemRead hands over the data. -/
theorem chunkBuildFromTypeAndInput : Obligations.ChunkBuildFromTypeAndInput := by
  unfold Obligations.ChunkBuildFromTypeAndInput
  refine ⟨by decide, fun s p hp => ⟨fun hty => (whenPending_some hp).trans (needType_none hty), fun t hty => ?_⟩⟩
  have hbuild : exec .chunkBuild s = checkRange s p _ := (whenPending_some hp).trans (needType_some hty)
  rw [hbuild]
  refine ⟨checkRange_of_gt, fun hin hmax => ?_, fun hmax hmissing => ?_, fun d hmax hinput => ?_⟩
  · exact (checkRange_of_le (Nat.le_of_not_lt hin)).trans (if_pos hmax)
  · obtain ⟨hrange, hcells⟩ := hmissing
    rw [checkRange_of_le hrange, if_neg (by omega)]
    exact memRead_of_unwritten hcells
  · obtain ⟨hrange, hlen, hcells⟩ := hinput
    rw [checkRange_of_le hrange, if_neg (by omega), ← hlen]
    exact memRead_of_written hcells

theorem result_of_lengthField (a b c d : Byte) (more : List Byte) :
    BitVec.ofNat 32 (unbe32 (slice (a :: b :: c :: d :: more) 0 4)) = a ++ b ++ c ++ d := by
  have hslice : slice (a :: b :: c :: d :: more) 0 4 = [a, b, c, d] := rfl
  rw [hslice, unbe32_four]
  calc BitVec.ofNat 32 (packed ⟨a, b, c, d⟩)
    _ = BitVec.ofNat 32 (pack4 ⟨a, b, c, d⟩).toNat := congrArg _ (pack4_toNat ⟨a, b, c, d⟩).symm
    _ = a ++ b ++ c ++ d := by rw [BitVec.ofNat_toNat, BitVec.setWidth_eq, pack4]

/-- Settles O34: ParseChunk gets what `onInput` hands it. -/
theorem chunkParseFromInput : Obligations.ChunkParseFromInput := by
  unfold Obligations.ChunkParseFromInput
  refine ⟨by decide, fun s p hp => ⟨onInput_of_outside hp, onInput_of_missing hp, fun r e hinput hparse => ?_,
    fun a b c d more ch hinput hparse => ?_⟩⟩
  · refine ⟨parseChunk_cause hparse, (onInput_of_inputIs hp hinput).trans ?_⟩
    rw [hparse]
    rfl
  · refine (onInput_of_inputIs hp hinput).trans ?_
    rw [hparse, ← result_of_lengthField a b c d more]
    rfl

/-! ## The fields and the texts of W -/

/-- Settles O35: RESULT is the data length, Crc(W) or Pack4 of the type. -/
theorem chunkFieldsOfW : Obligations.ChunkFieldsOfW := by
  unfold Obligations.ChunkFieldsOfW
  refine ⟨by decide, by decide, by decide, fun s p hp => ⟨fun c hw => ⟨?_, ?_, ?_⟩, fun hw i hi => ?_⟩⟩
  · exact whenChunk_of_some hp hw
  · exact whenChunk_of_some hp hw
  · exact ⟨pack4 c.type, pack4_toNat c.type, whenChunk_of_some hp hw⟩
  · simp only [List.mem_cons, List.not_mem_nil, or_false] at hi
    rcases hi with rfl | rfl | rfl <;> exact whenChunk_of_none hp hw

/-- Settles O36: the four bytes of the type go out, and OBUF reads as `read_output` says. -/
theorem chunkTypeTextOfW : Obligations.ChunkTypeTextOfW := by
  unfold Obligations.ChunkTypeTextOfW
  refine ⟨by decide, fun s p hp => ⟨whenChunk_of_none hp, fun c hw => ?_⟩⟩
  exact ⟨State.finished { s.output c.type.bytes with result := 1 }, whenChunk_of_some hp hw, rfl,
    read_output s c.type.bytes⟩

/-- Settles O38: `utf8Valid` decides between text and the empty answer, and the length between text and the error. -/
theorem chunkDataTextOfW : Obligations.ChunkDataTextOfW := by
  unfold Obligations.ChunkDataTextOfW
  refine ⟨by decide, fun s p hp => ⟨whenChunk_of_none hp, fun c hw => ?_⟩⟩
  have htext : exec .chunkDataText s = ite _ _ _ := whenChunk_of_some hp hw
  rw [htext]
  refine ⟨fun h => if_neg (by simp [h]), fun h hfull => (if_pos h).trans (checkOutput_of_gt hfull), fun h hfit => ?_⟩
  exact ⟨State.finished { s.output c.data with result := 1 }, (if_pos h).trans (checkOutput_of_le hfit), rfl,
    read_output s c.data⟩

end Sys2Proof.Proofs
end

section
namespace Sys2Proof.Proofs

open Sys2Proof.Machine Sys2Proof.Claims Sys2Proof.Laws

/-! ## One turn of ParsePng's loop, by the bytes ahead (R152) -/

theorem slice_zero (s : List Byte) (j : Nat) : slice s 0 j = s.take j := rfl

theorem drop_record (b : Byte) (rest : List Byte) (n : Nat) : (b :: rest).drop (12 + n) = rest.drop (11 + n) := by
  rw [show 12 + n = 11 + n + 1 by omega, List.drop_succ_cons]

section
variable {cfg : Params} {r : List Byte} {n pos : Nat} {L : List Chunk}

theorem parseRecords_nil (skip : Nat) : parseRecords cfg [] skip pos L = .ok L := by
  unfold parseRecords
  rfl

/-- The bytes to be stepped over are dropped from the input. -/
theorem parseRecords_skip (k : Nat) : parseRecords cfg r k pos L = parseRecords cfg (r.drop k) 0 pos L := by
  induction r generalizing k with
  | nil => rw [List.drop_nil, parseRecords_nil, parseRecords_nil]
  | cons b rest ih =>
    cases k with
    | zero => rfl
    | succ k => exact ih k

theorem parseRecords_of_short (hne : r ≠ []) (hr : r.length < 12) :
    parseRecords cfg r 0 pos L = .error ⟨.chunkParseFailure, .malformed, pos⟩ := by
  cases r with
  | nil => contradiction
  | cons b rest => exact if_pos hr

variable (hr : 12 ≤ r.length) (hn : unbe32 (r.take 4) = n)
include hr hn

theorem parseRecords_of_long (hlong : r.length - 12 < n) :
    parseRecords cfg r 0 pos L = .error ⟨.chunkParseFailure, .malformed, pos⟩ := by
  subst hn
  obtain ⟨b, rest, rfl⟩ := List.exists_cons_of_length_pos (l := r) (by omega)
  exact (if_neg (Nat.not_lt.mpr hr)).trans (if_pos hlong)

variable (hin : n ≤ r.length - 12)
include hin

theorem parseRecords_of_error {e : ErrCode} (hparse : parseChunk cfg (r.take (12 + n)) = .error e) :
    parseRecords cfg r 0 pos L = .error ⟨.chunkParseFailure, e, pos⟩ := by
  obtain ⟨b, rest, rfl⟩ := List.exists_cons_of_length_pos (l := r) (by omega)
  rw [parseRecords]
  simp only [slice_zero, hn, hparse]
  exact (if_neg (Nat.not_lt.mpr hr)).trans (if_neg (Nat.not_lt.mpr hin))

/-- A record that parses: its chunk is appended and the loop goes on after it, unless the store is full. -/
theorem parseRecords_of_chunk {c : Chunk} (hparse : parseChunk cfg (r.take (12 + n)) = .ok c) :
    parseRecords cfg r 0 pos L =
      if storeOK cfg (L ++ [c]) then parseRecords cfg (r.drop (12 + n)) 0 (pos + 12 + n) (L ++ [c])
      else .error ⟨.storeFull, .success, pos⟩ := by
  obtain ⟨b, rest, rfl⟩ := List.exists_cons_of_length_pos (l := r) (by omega)
  rw [drop_record, ← parseRecords_skip, parseRecords]
  simp only [slice_zero, hn, hparse]
  exact (if_neg (Nat.not_lt.mpr hr)).trans (if_neg (Nat.not_lt.mpr hin))

end
end Sys2Proof.Proofs
end

section
namespace Sys2Proof.Proofs

open Sys2Proof.Machine Sys2Proof.Claims Sys2Proof.Laws

/-! ## ParsePng on serialized chunks -/

section
variable {cfg : Params} {c : Chunk} {L : List Chunk}

theorem chunkLength_toNat (hlen : c.data.length < 2 ^ 32) : c.length.toNat = c.data.length := Nat.mod_eq_of_lt hlen

theorem unbe32_take_serialize (hlen : c.data.length < 2 ^ 32) (r : List Byte) :
    unbe32 ((c.serialize ++ r).take 4) = c.data.length := by
  have htake : (c.serialize ++ r).take 4 = be32 c.length := rfl
  rw [htake, ← chunkLength_toNat hlen, unbe32_eq_toNat_iff rfl]

/-- ParseChunk's input is the wire form of its answer when the length field is true (R125). -/
theorem serialize_of_parseChunk {r : List Byte} (hok : cfg.ok = true) (hparse : parseChunk cfg r = .ok c)
    (hr : r.length = 12 + unbe32 (r.take 4)) : c.serialize = r := by
  obtain ⟨hwf, h, hh, rfl⟩ := parseChunk_eq_ok_iff.mp hparse
  have htake : (record h c.type c.data (be32 c.crc)).take 4 = h := by
    rw [record_eq_append, ← hh, List.take_left]
  have hlength : (record h c.type c.data (be32 c.crc)).length = 12 + c.data.length := by
    simp only [record, TypeBytes.bytes, be32, List.length_append, List.length_cons, List.length_nil]
    omega
  have hfield : unbe32 h = c.length.toNat := by
    rw [chunkLength_toNat (length_lt_of_wf hok hwf)]
    rw [htake] at hr
    omega
  rw [serialize_eq_record, (unbe32_eq_toNat_iff hh _).mp hfield]

theorem storeOK_of_append {M : List Chunk} (h : storeOK cfg (L ++ M) = true) : storeOK cfg L = true := by
  simp only [storeOK_iff, storedBytes_append, List.length_append] at h ⊢
  omega

theorem parseRecords_serialize_append (hok : cfg.ok = true) (hwf : c.wf cfg = true)
    (hfit : storeOK cfg (L ++ [c]) = true) (r : List Byte) (pos : Nat) :
    parseRecords cfg (c.serialize ++ r) 0 pos L = parseRecords cfg r 0 (pos + c.serialize.length) (L ++ [c]) := by
  have hlen := length_serialize c
  have hrlen : (c.serialize ++ r).length = 12 + c.data.length + r.length := by rw [List.length_append, hlen]
  have hparse : parseChunk cfg ((c.serialize ++ r).take (12 + c.data.length)) = .ok c := by
    rw [← hlen, List.take_left]
    exact parseChunk_eq_ok_iff.mpr ⟨hwf, _, rfl, serialize_eq_record c⟩
  rw [parseRecords_of_chunk (by omega) (unbe32_take_serialize (length_lt_of_wf hok hwf) r) (by omega) hparse,
    if_pos hfit, Nat.add_assoc, ← hlen, List.drop_left]

theorem parseRecords_serialized_append (hok : cfg.ok = true) {M : List Chunk} (hwf : ∀ c ∈ M, c.wf cfg = true)
    (hfit : storeOK cfg (L ++ M) = true) (r : List Byte) (pos : Nat) :
    parseRecords cfg (M.flatMap Chunk.serialize ++ r) 0 pos L =
      parseRecords cfg r 0 (pos + (M.flatMap Chunk.serialize).length) (L ++ M) := by
  induction M generalizing L pos with
  | nil => simp
  | cons c M ih =>
    obtain ⟨hc, hM⟩ := List.forall_mem_cons.mp hwf
    rw [List.append_cons] at hfit
    rw [List.flatMap_cons, List.append_assoc, parseRecords_serialize_append hok hc (storeOK_of_append hfit), ih hM hfit,
      List.length_append, Nat.add_assoc, ← List.append_cons]

theorem parsePng_signature_append (r : List Byte) : parsePng cfg (pngSignature ++ r) = parseRecords cfg r 0 8 [] :=
  if_neg (by simp [pngSignature, slice])

/-- After a serialized storable list, ParsePng is the loop on the bytes that follow. -/
theorem parsePng_serializePng_append (hok : cfg.ok = true) (hwf : ∀ c ∈ L, c.wf cfg = true)
    (hfit : storeOK cfg L = true) (r : List Byte) :
    parsePng cfg (serializePng L ++ r) = parseRecords cfg r 0 (serializePng L).length L := by
  rw [serializePng, List.append_assoc, parsePng_signature_append, parseRecords_serialized_append (L := []) hok hwf hfit,
    List.length_append]
  rfl

theorem parsePng_serializePng (hok : cfg.ok = true) (hwf : ∀ c ∈ L, c.wf cfg = true) (hfit : storeOK cfg L = true) :
    parsePng cfg (serializePng L) = .ok L := by
  rw [← List.append_nil (serializePng L), parsePng_serializePng_append hok hwf hfit, parseRecords_nil]

/-- The record the loop hands to ParseChunk is the wire form of the answer (R125, R152). -/
theorem serialize_of_parsed_record {r : List Byte} {n : Nat} (hok : cfg.ok = true) (hr : 12 ≤ r.length)
    (hn : unbe32 (r.take 4) = n) (hin : n ≤ r.length - 12) (hparse : parseChunk cfg (r.take (12 + n)) = .ok c) :
    c.serialize = r.take (12 + n) := by
  refine serialize_of_parseChunk hok hparse ?_
  rw [List.length_take_of_le (by omega), List.take_take, Nat.min_eq_left (by omega), hn]

/-- The loop adds to `L` exactly the chunks whose wire forms are the bytes it reads. -/
theorem serialize_of_parseRecords {M : List Chunk} {r : List Byte} {skip pos : Nat} (hok : cfg.ok = true)
    (h : parseRecords cfg r skip pos L = .ok M) :
    M.flatMap Chunk.serialize = L.flatMap Chunk.serialize ++ r.drop skip := by
  fun_induction parseRecords cfg r skip pos L with
  | case1 => cases h; simp
  | case2 _ _ _ _ _ ih => exact ih h
  | case3 => cases h
  | case4 => cases h
  | case5 => cases h
  | case6 pos L b rest rem hrem n hn c hparse hstore ih =>
    have hser : c.serialize = (b :: rest).take (12 + n) :=
      serialize_of_parsed_record hok (Nat.not_lt.mp hrem) rfl (Nat.not_lt.mp hn) hparse
    rw [ih h, List.flatMap_append, List.flatMap_singleton, List.append_assoc, hser, ← drop_record b,
      List.take_append_drop, List.drop_zero]
  | case7 => cases h

theorem serializePng_of_parsePng {r : List Byte} (hok : cfg.ok = true) (h : parsePng cfg r = .ok L) :
    serializePng L = r := by
  unfold parsePng at h
  split at h
  · cases h
  · next hsig =>
    obtain ⟨-, hsig⟩ := not_or.mp hsig
    rw [serializePng, serialize_of_parseRecords hok h, ← not_not.mp hsig]
    exact List.take_append_drop 8 r

end

/-- Settles O43: the loop reads a serialized list back (induction on the list), and what it accepts is the wire forms of
the chunks it adds (induction on its run). -/
theorem containerRoundTrip : Obligations.ContainerRoundTrip := by
  unfold Obligations.ContainerRoundTrip
  exact fun cfg hok => ⟨fun r L => serializePng_of_parsePng hok, fun L => parsePng_serializePng hok⟩

/-! ## The container's bytes (R153), and ParsePng record by record -/

theorem serializePng_eq_fileForm {L : List Chunk} (hlen : ∀ c ∈ L, c.data.length < 2 ^ 32) :
    serializePng L = fileForm L := by
  rw [serializePng, List.flatMap_def, List.map_congr_left fun c hc => serialize_eq_wireForm (hlen c hc)]
  rfl

theorem fileForm_append_singleton (L : List Chunk) (c : Chunk) : fileForm (L ++ [c]) = fileForm L ++ wireForm c := by
  simp [fileForm]

/-- Settles O42: after `fileForm L` ParsePng is the loop on `r`, and one lemma gives each turn of the loop. -/
theorem parsePngRecordByRecord : Obligations.ParsePngRecordByRecord := by
  unfold Obligations.ParsePngRecordByRecord
  refine fun cfg hok => ⟨fun r hr => if_pos hr, fun L hwf hfit => ?_⟩
  have hform : serializePng L = fileForm L := serializePng_eq_fileForm fun c hc => length_lt_of_wf hok (hwf c hc)
  have hloop (r : List Byte) : parsePng cfg (fileForm L ++ r) = parseRecords cfg r 0 (fileForm L).length L :=
    hform ▸ parsePng_serializePng_append hok hwf hfit r
  refine ⟨hform ▸ parsePng_serializePng hok hwf hfit, fun r hne hr => (hloop r).trans (parseRecords_of_short hne hr),
    fun a b c d more => ?_⟩
  intro r n hr
  have hn : unbe32 (r.take 4) = n := unbe32_four a b c d
  refine ⟨fun hlong => ?_, fun e hin hparse => ?_, fun ch hin hparse => ⟨fun hfull => ?_, parseChunk_wf hparse, ?_⟩⟩
  · exact (hloop r).trans (parseRecords_of_long hr hn hlong)
  · exact (hloop r).trans (parseRecords_of_error hr hn hin hparse)
  · rw [hloop r, parseRecords_of_chunk hr hn hin hparse, hfull]
    rfl
  · have hser : wireForm ch = r.take (12 + n) := by
      rw [← serialize_eq_wireForm (length_lt_of_wf hok (parseChunk_wf hparse))]
      exact serialize_of_parsed_record hok hr hn hin hparse
    rw [fileForm_append_singleton, hser, List.append_assoc, List.take_append_drop]

end Sys2Proof.Proofs
end

section
namespace Sys2Proof.Proofs

open Sys2Proof.Machine Sys2Proof.Claims Sys2Proof.Laws

/-! ## PNG_SERIALIZE -/

theorem length_serializePng (L : List Chunk) :
    (serializePng L).length = 8 + (L.map fun c => 12 + c.data.length).sum := by
  rw [serializePng, List.length_append, List.length_flatMap, List.map_congr_left fun c _ => length_serialize c]
  rfl

/-- Settles O50: the container's bytes are `serializePng`, and OBUF reads as `read_output` says. -/
theorem pngSerializeWritesTheContainer : Obligations.PngSerializeWritesTheContainer := by
  unfold Obligations.PngSerializeWritesTheContainer
  refine ⟨by decide, fun s p hp hlen => ?_⟩
  rw [← serializePng_eq_fileForm hlen]
  refine ⟨rfl, length_serializePng s.store, fun hfull => ?_, fun hfit => ?_⟩
  · exact (whenPending_some hp).trans (checkOutput_of_gt hfull)
  · exact ⟨(s.output (serializePng s.store)).finished, (whenPending_some hp).trans (checkOutput_of_le hfit), rfl,
      read_output s (serializePng s.store)⟩

/-! ## PNG_PARSE -/

/-- A failure of the loop names the start of a record that is still to be read, `pos + (len r - skip)` being the end. -/
theorem parseRecords_error {cfg : Params} {r : List Byte} {skip pos : Nat} {L : List Chunk} {f : ParseFailure}
    (h : parseRecords cfg r skip pos L = .error f) :
    (f.code = .storeFull ∨ f.code = .chunkParseFailure) ∧ f.off < pos + (r.length - skip) := by
  fun_induction parseRecords cfg r skip pos L with
  | case1 => cases h
  | case2 _ _ _ _ _ ih => simpa using ih h
  | case3 => cases h; simp
  | case4 => cases h; simp
  | case5 => cases h; simp
  | case6 pos L b rest rem hrem n hn c hparse hstore ih =>
    obtain ⟨hcode, hoff⟩ := ih h
    refine ⟨hcode, ?_⟩
    rw [List.length_cons]
    omega
  | case7 => cases h; simp

/-- ParsePng fails on the signature, or in the loop at an offset inside its input (R152). -/
theorem parsePng_error {cfg : Params} {r : List Byte} {f : ParseFailure} (h : parsePng cfg r = .error f) :
    f = ⟨.badSignature, .success, 0⟩ ∨ (f.code = .storeFull ∨ f.code = .chunkParseFailure) ∧ f.off < r.length := by
  unfold parsePng at h
  split at h
  · cases h; exact .inl rfl
  · obtain ⟨hcode, hoff⟩ := parseRecords_error h
    rw [List.length_drop] at hoff
    exact .inr ⟨hcode, by omega⟩

theorem errorFits_storeFull {sub : ErrCode} (h : ErrorFits .storeFull sub) : sub = .success := by
  obtain ⟨-, hsub⟩ := h
  simpa using hsub

theorem errorFits_chunkParseFailure {sub : ErrCode} (h : ErrorFits .chunkParseFailure sub) : sub ∈ chunkCauses := by
  obtain ⟨-, hsub⟩ := h
  simpa using hsub

/-- Settles O44: ParsePng gets what `onInput` hands it, and `parsePng_error` bounds its failures. -/
theorem pngParseReplacesTheStore : Obligations.PngParseReplacesTheStore := by
  unfold Obligations.PngParseReplacesTheStore
  refine ⟨by decide, fun s p hp => ⟨onInput_of_outside hp, onInput_of_missing hp,
    fun r code sub off hinput hparse => ⟨?_, ?_⟩, fun r L hinput hparse => ?_⟩⟩
  · refine (onInput_of_inputIs hp hinput).trans ?_
    rw [hparse]
    rfl
  · obtain ⟨-, hlen, -⟩ := hinput
    have hfits := parsePng_fits hparse
    rcases parsePng_error hparse with hsig | ⟨rfl | rfl, hoff⟩
    · cases hsig
      exact ⟨.inr rfl, .inl ⟨rfl, rfl, rfl⟩⟩
    · exact ⟨.inl (hlen ▸ hoff), .inr (.inl ⟨rfl, errorFits_storeFull hfits⟩)⟩
    · exact ⟨.inl (hlen ▸ hoff), .inr (.inr ⟨rfl, errorFits_chunkParseFailure hfits⟩)⟩
  · refine (onInput_of_inputIs hp hinput).trans ?_
    rw [hparse]
    rfl

/-! ## Lookups in the store (R155) -/

theorem findFirst_eq_findIdx? (L : List Chunk) (t : TypeBytes) : findFirst L t = L.findIdx? (·.type = t) := by
  induction L with
  | nil => rfl
  | cons c L ih => simp only [findFirst, ih, List.findIdx?_cons, decide_eq_true_eq]

theorem findFirst_eq_none {L : List Chunk} {t : TypeBytes} (h : ∀ c ∈ L, c.type ≠ t) : findFirst L t = none := by
  simpa [findFirst_eq_findIdx?] using h

theorem findFirst_of_firstOfType {L : List Chunk} {t : TypeBytes} {i : Nat} {c : Chunk} (h : firstOfType L t i c) :
    findFirst L t = some i := by
  obtain ⟨hi, hty, hbefore⟩ := h
  obtain ⟨hlt, rfl⟩ := List.getElem?_eq_some_iff.mp hi
  rw [findFirst_eq_findIdx?, List.findIdx?_eq_some_iff_getElem]
  refine ⟨hlt, decide_eq_true hty, fun j hj => ?_⟩
  simpa using hbefore j hj _ (List.getElem?_eq_getElem (by omega))

theorem getElem?_of_firstOfType {L : List Chunk} {t : TypeBytes} {i : Nat} {c : Chunk} (h : firstOfType L t i c) :
    L[i]? = some c := by
  obtain ⟨hi, -, -⟩ := h
  exact hi

/-- A chunk appended to a store without its type is the first of its type there. -/
theorem firstOfType_append_singleton {L : List Chunk} {c : Chunk} (h : ∀ d ∈ L, d.type ≠ c.type) :
    firstOfType (L ++ [c]) c.type L.length c := by
  refine ⟨List.getElem?_concat_length, rfl, fun j hj d hd => ?_⟩
  rw [List.getElem?_append_left hj] at hd
  exact h d (List.mem_of_getElem? hd)

/-- Settles O46: FindFirst answers the index of `firstOfType`, and none when the type is absent. -/
theorem pngFindCopiesTheFirst : Obligations.PngFindCopiesTheFirst := by
  unfold Obligations.PngFindCopiesTheFirst
  refine ⟨by decide, fun s p t hp hkey => ⟨fun i c hfirst => ?_, fun hnone => ?_⟩⟩
  · refine (whenPending_some hp).trans ?_
    rw [unpack4_of_toNat hkey, findFirst_of_firstOfType hfirst, ← getElem?_of_firstOfType hfirst]
    rfl
  · refine (whenPending_some hp).trans ?_
    rw [unpack4_of_toNat hkey, findFirst_eq_none hnone]
    rfl

theorem exec_pngRemove_of_firstOfType {s : State} {p : Pending} {t : TypeBytes} {i : Nat} {c : Chunk}
    (hp : s.pend = some p) (hkey : p.key.toNat = packed t) (hfirst : firstOfType s.store t i c) :
    exec .pngRemove s = .next (ended { s with
      w := some c, store := removeAt s.store i, found := true, result := BitVec.ofNat 32 i }) := by
  refine (whenPending_some hp).trans ?_
  rw [unpack4_of_toNat hkey, findFirst_of_firstOfType hfirst, ← getElem?_of_firstOfType hfirst]
  rfl

/-- Settles O47: FindFirst answers the index of `firstOfType`, and none when the type is absent. -/
theorem pngRemoveTakesTheFirst : Obligations.PngRemoveTakesTheFirst := by
  unfold Obligations.PngRemoveTakesTheFirst
  refine ⟨by decide, fun s p t hp hkey => ⟨fun i c => exec_pngRemove_of_firstOfType hp hkey, fun hnone => ?_⟩⟩
  refine (whenPending_some hp).trans ?_
  rw [unpack4_of_toNat hkey, findFirst_eq_none hnone]
  rfl

/-! ## PNG_APPEND, PNG_COUNT and PNG_GET -/

theorem storeOK_append_singleton_iff {cfg : Params} {L : List Chunk} {c : Chunk} : storeOK cfg (L ++ [c]) = true ↔
    L.length + 1 ≤ cfg.maxChunks ∧ (L.map fun d => d.data.length).sum + c.data.length ≤ cfg.storeBytes := by
  simp [storeOK_iff, storedBytes]

theorem exec_pngAppend_of_some {s : State} {p : Pending} {c : Chunk} (hp : s.pend = some p) (hw : s.w = some c) :
    exec .pngAppend s = if storeOK s.cfg (s.store ++ [c]) then
        .next (ended { s with
          store := s.store ++ [c], w := none, result := BitVec.ofNat 32 (s.store.length + 1) })
      else .next (failed s .storeFull .success 0) := by
  rw [show s.store.length + 1 = (s.store ++ [c]).length by simp]
  exact whenChunk_of_some hp hw

/-- Settles O45: the store's two limits are StoreOK of S with W. -/
theorem pngAppendMovesW : Obligations.PngAppendMovesW := by
  unfold Obligations.PngAppendMovesW
  refine ⟨by decide, fun s p hp => ⟨whenChunk_of_none hp, fun c hw => ?_⟩⟩
  rw [exec_pngAppend_of_some hp hw, ← storeOK_append_singleton_iff]
  exact ⟨fun hfits => if_pos hfits, fun hfits => if_neg hfits⟩

theorem removeAt_append_singleton (L : List Chunk) (c : Chunk) : removeAt (L ++ [c]) L.length = L := by
  simp [removeAt]

/-- Settles O48: the appended chunk is the first of its type, at the old end of S, and removing it gives S back. -/
theorem appendThenRemoveGivesBack : Obligations.AppendThenRemoveGivesBack := by
  unfold Obligations.AppendThenRemoveGivesBack
  intro s t p q c hp hw hnew hfit happend hkey
  rw [exec_pngAppend_of_some hp hw, if_pos hfit] at happend
  cases happend
  have hfirst := firstOfType_append_singleton hnew
  refine ⟨_, exec_pngRemove_of_firstOfType rfl hkey hfirst, removeAt_append_singleton s.store c, rfl, rfl, rfl⟩

/-- Settles O49: RESULT is the length of S, and `S[IDX]?` decides between the error and the copy. -/
theorem pngCountAndGet : Obligations.PngCountAndGet := by
  unfold Obligations.PngCountAndGet
  refine ⟨by decide, by decide, fun s p hp => ⟨whenPending_some hp, fun hout => ?_, fun hin => ?_⟩⟩
  · refine (whenPending_some hp).trans ?_
    rw [List.getElem?_eq_none hout]
    rfl
  · refine (whenPending_some hp).trans ?_
    rw [List.getElem?_eq_getElem hin]
    rfl

end Sys2Proof.Proofs
end

section
namespace Sys2Proof.Proofs

open Sys2Proof.Machine Sys2Proof.Claims Sys2Proof.Laws

/-! ## Control: illegal words, NOP and ERR_CLEAR (R170 to R172) -/

section
variable {s : State} {p : Pending}

theorem executeWord_of_illegal {cw : Word} {why : IllegalWord} (h : decode cw = .illegal why) :
    executeWord s cw = execIllegal s := by
  rw [executeWord, h]

theorem execIllegal_of_some (hp : s.pend = some p) :
    execIllegal s = .next (failed s .illegalCommand .success 0) := whenPending_some hp

theorem exec_nop (hp : s.pend = some p) : exec .nop s = .next (ended s) := whenPending_some hp

theorem exec_errClear (hp : s.pend = some p) :
    exec .errClear s = .next (ended { s with sticky := false, overrun := false, errOffset := 0 }) := whenPending_some hp

/-- The execute step of an illegal word (R172): `step_engine` is the same for a word that decodes to a command. -/
theorem step_engine_of_illegal {why : IllegalWord} {rest : List Event} (hok : s.cfg.ok = true) (hr : s.resetIn = false)
    (hp : s.pend = some p) (hdecode : decode p.cw = .illegal why) (hev : s.events = .engine :: rest) :
    step s = .next (failed { s with events := rest } .illegalCommand .success 0) :=
  calc step s
    _ = engineTurn { s with events := rest } := step_of_event hok hev
    _ = executeWord { s with events := rest } p.cw := engineTurn_of_some hr hp
    _ = execIllegal { s with events := rest } := executeWord_of_illegal hdecode
    _ = .next (failed { s with events := rest } .illegalCommand .success 0) := execIllegal_of_some hp

end

/-- Settles O6: the accept does not decode the word, and the engine's turn runs the execute step of an illegal word. -/
theorem illegalWordRaisesIllegalCommand : Obligations.IllegalWordRaisesIllegalCommand := by
  unfold Obligations.IllegalWordRaisesIllegalCommand
  refine ⟨fun s v why rest hok hr hbusy _ hev => ?_, fun s p why rest hok hr hp hdecode hev => ?_⟩
  · exact step_cmdWrite ⟨hok, hr, hbusy, hev⟩
  · exact step_engine_of_illegal hok hr hp hdecode hev

/-- Settles O51: one equation per command. -/
theorem nopAndErrClear : Obligations.NopAndErrClear := by
  unfold Obligations.NopAndErrClear
  exact ⟨by decide, by decide, fun _ _ hp => ⟨exec_nop hp, exec_errClear hp⟩⟩

end Sys2Proof.Proofs
end

section
namespace Sys2Proof.Proofs

open Sys2Proof.Machine Sys2Proof.Claims Sys2Proof.Laws

/-! ## The two ends of a command (R184, R185) -/

/-- Settles O52: at `raise` only the error record is written, and at `finish` the error record is kept but by ERR_CLEAR. -/
theorem commandsEndByFinishOrRaise : Obligations.CommandsEndByFinishOrRaise := by
  unfold Obligations.CommandsEndByFinishOrRaise
  intro i s t h
  cases endsIn_exec s i t h with
  | raised off hfits => exact ⟨rfl, rfl, rfl, fun hok => absurd hok hfits.1, fun _ => rfl⟩
  | finished hw =>
    refine ⟨rfl, rfl, rfl, fun _ => ⟨rfl, fun hi => ?_⟩, fun herr => absurd rfl herr⟩
    exact (writes_errorRecord hw).resolve_right fun hclear => hi hclear.1

/-! ## The faults of a host access (R42, R43, R45, R46, R200, R208) -/

section
variable {s : State} {a : Access} {f : Fault}

/-- `AccessFault s a f`: in `s` the access `a` is the model fault `f`. `hostAccess_eq_fault_iff` ties it to
`hostAccess`. -/
inductive AccessFault (s : State) : Access → Fault → Prop
  | inReset {a : Access} (hr : s.resetIn = true) : AccessFault s a .hostBusError
  | notAdmitted {a : Access} (hadm : busAdmits s.cfg a = false) : AccessFault s a .hostBusError
  | hazard {off : Nat} {v : Word} (hr : s.resetIn = false) (hbusy : s.busy = true) (hoff : off < s.cfg.ibufSize) :
      AccessFault s (.write .ibuf off 8 v) .hostHazard
  | ibufUnwritten {off : Nat} (hr : s.resetIn = false) (hoff : off < s.cfg.ibufSize)
      (hcell : Memory.read s.ibuf off = none) : AccessFault s (.read .ibuf off 8) .uninitRead
  | obufUnwritten {off : Nat} (hr : s.resetIn = false) (hbusy : s.busy = false) (hoff : off < s.cfg.obufSize)
      (hcell : Memory.read s.obuf off = none) : AccessFault s (.read .obuf off 8) .uninitRead

theorem hostAccess_inReset (hr : s.resetIn = true) : hostAccess s a = .fault .hostBusError := if_pos hr

/-- While BUSY = 1 an OBUF cell reads as a draw, written or not (R209). -/
theorem hostAccess_obufRead_busy {off : Nat} (hr : s.resetIn = false) (hoff : off < s.cfg.obufSize)
    (hbusy : s.busy = true) :
    hostAccess s (.read .obuf off 8) = .next (s.deliverDraw fun d => .byte (d.setWidth 8)) := by
  simp [hostAccess, hr, hostRead, bufAdmits_iff.mpr ⟨rfl, hoff⟩, hbusy]

theorem hostAccess_ibufWrite_busy {off : Nat} {v : Word} (hr : s.resetIn = false) (hoff : off < s.cfg.ibufSize)
    (hbusy : s.busy = true) : hostAccess s (.write .ibuf off 8 v) = .fault .hostHazard := by
  simp [hostAccess, hr, hostWrite, bufAdmits_iff.mpr ⟨rfl, hoff⟩, hbusy]

theorem readCell_eq_fault_iff {m : Memory} {off : Nat} :
    readCell s m off = .fault f ↔ m.read off = none ∧ f = .uninitRead := by
  cases hcell : m.read off with
  | none => simp [readCell_none hcell, eq_comm]
  | some b => simp [readCell_some hcell]

/-- An admitted access outside reset faults only on an unwritten cell or an IBUF write while BUSY = 1. -/
theorem accessFault_of_admitted (hr : s.resetIn = false) (hadm : busAdmits s.cfg a = true)
    (h : hostAccess s a = .fault f) : AccessFault s a f := by
  cases a with
  | read sp off width =>
    cases sp with
    | reg =>
      obtain ⟨rfl, hoff⟩ := regAdmits_iff.mp hadm
      rw [hostAccess_regRead hr hoff] at h; cases h
    | ibuf =>
      obtain ⟨rfl, hoff⟩ := bufAdmits_iff.mp hadm
      rw [hostAccess_ibufRead hr hoff] at h
      obtain ⟨hcell, rfl⟩ := readCell_eq_fault_iff.mp h
      exact .ibufUnwritten hr hoff hcell
    | obuf =>
      obtain ⟨rfl, hoff⟩ := bufAdmits_iff.mp hadm
      cases hbusy : s.busy with
      | true => rw [hostAccess_obufRead_busy hr hoff hbusy] at h; cases h
      | false =>
        rw [hostAccess_obufRead_idle hr hoff hbusy] at h
        obtain ⟨hcell, rfl⟩ := readCell_eq_fault_iff.mp h
        exact .obufUnwritten hr hbusy hoff hcell
  | write sp off width v =>
    cases sp with
    | reg =>
      obtain ⟨rfl, hoff⟩ := regAdmits_iff.mp hadm
      rw [hostAccess_regWrite hr hoff] at h; cases h
    | ibuf =>
      obtain ⟨rfl, hoff⟩ := bufAdmits_iff.mp hadm
      cases hbusy : s.busy with
      | true => rw [hostAccess_ibufWrite_busy hr hoff hbusy] at h; cases h; exact .hazard hr hbusy hoff
      | false => rw [hostAccess_ibufWrite_idle hr hoff hbusy] at h; cases h
    | obuf => cases hadm

theorem hostAccess_eq_fault_iff : hostAccess s a = .fault f ↔ AccessFault s a f := by
  constructor
  · intro h
    cases hr : s.resetIn with
    | true => rw [hostAccess_inReset hr] at h; cases h; exact .inReset hr
    | false =>
      cases hadm : busAdmits s.cfg a with
      | true => exact accessFault_of_admitted hr hadm h
      | false => rw [hostAccess_notAdmitted hadm] at h; cases h; exact .notAdmitted hadm
  · intro h
    cases h with
    | inReset hr => exact hostAccess_inReset hr
    | notAdmitted hadm => exact hostAccess_notAdmitted hadm
    | hazard hr hbusy hoff => exact hostAccess_ibufWrite_busy hr hoff hbusy
    | ibufUnwritten hr hoff hcell => exact (hostAccess_ibufRead hr hoff).trans (readCell_none hcell)
    | obufUnwritten hr hbusy hoff hcell => exact (hostAccess_obufRead_idle hr hoff hbusy).trans (readCell_none hcell)

theorem accessFault_hostBusError_iff :
    AccessFault s a .hostBusError ↔ s.resetIn = true ∨ busAdmits s.cfg a = false := by
  constructor
  · intro h
    cases h with
    | inReset hr => exact .inl hr
    | notAdmitted hadm => exact .inr hadm
  · exact fun h => h.elim .inReset .notAdmitted

/-- The accesses the bus does not admit, space by space (R44 to R46). -/
theorem busAdmits_eq_false_iff {cfg : Params} : busAdmits cfg a = false ↔
    (∃ off w, (a = .read .reg off w ∨ ∃ v, a = .write .reg off w v) ∧ (w ≠ 32 ∨ off % 4 ≠ 0 ∨ 0x100 ≤ off)) ∨
    (∃ off w, (a = .read .ibuf off w ∨ ∃ v, a = .write .ibuf off w v) ∧ (w ≠ 8 ∨ cfg.ibufSize ≤ off)) ∨
    (∃ off w, a = .read .obuf off w ∧ (w ≠ 8 ∨ cfg.obufSize ≤ off)) ∨ ∃ off w v, a = .write .obuf off w v := by
  have hreg (off w : Nat) : regAdmits off w = false ↔ w ≠ 32 ∨ off % 4 ≠ 0 ∨ 0x100 ≤ off := by
    rw [← Bool.not_eq_true, regAdmits_iff]; omega
  have hbuf (size off w : Nat) : bufAdmits size off w = false ↔ w ≠ 8 ∨ size ≤ off := by
    rw [← Bool.not_eq_true, bufAdmits_iff]; omega
  cases a with
  | read sp off w => cases sp <;> simp [busAdmits, hreg, hbuf]
  | write sp off w v => cases sp <;> simp [busAdmits, hreg, hbuf]

end

/-! ## The fault of an executed command (R47) -/

/-- The outcome is no model fault. -/
def NoFault (r : Result) : Prop := ∀ f, r ≠ .fault f

section
variable {s : State} {p : Pending} {i : Instr}

theorem noFault_next (t : State) : NoFault (.next t) := nofun

theorem noFault_ite {c : Prop} [Decidable c] {k l : Result} (hk : NoFault k) (hl : NoFault l) :
    NoFault (if c then k else l) := by
  split
  · exact hk
  · exact hl

theorem noFault_whenPending {k : Pending → Result} (hk : ∀ p, s.pend = some p → NoFault (k p)) :
    NoFault (whenPending s k) := by
  intro f h
  obtain ⟨p, hp, h⟩ := whenPending_fault h
  exact hk p hp f h

theorem noFault_checkRange {k : Result} (hk : NoFault k) : NoFault (checkRange s p k) :=
  fun f h => hk f (checkRange_fault h).2

theorem noFault_needType {k : TypeBytes → Result} (hk : ∀ ty, s.ctype = some ty → NoFault (k ty)) :
    NoFault (needType s k) := by
  cases hty : s.ctype with
  | none => rw [needType_none hty]; exact noFault_next _
  | some ty => rw [needType_some hty]; exact hk ty hty

theorem noFault_needChunk {k : Chunk → Result} (hk : ∀ c, NoFault (k c)) : NoFault (needChunk s k) := by
  cases hw : s.w with
  | none => rw [needChunk_none hw]; exact noFault_next _
  | some c => rw [needChunk_some hw]; exact hk c

theorem noFault_checkOutput {n : Nat} {k : Result} (hk : NoFault k) : NoFault (checkOutput s n k) :=
  noFault_ite (noFault_next _) hk

theorem noFault_loadType (bytes : List Byte) : NoFault (loadType s bytes) := by
  unfold loadType
  split <;> exact noFault_next _

/-- Command `i` comes to its MemRead when its range is in IBUF: the other checks that stand before it pass (R87, R89, R106,
R128, R129, R156). `exec_eq_fault_iff` ties it to `exec`. -/
def ReachesMemRead (s : State) (p : Pending) (i : Instr) : Prop :=
  i ∈ [Instr.crcBuf, .crcChecksum, .chunkParse, .pngParse] ∨ (i = .typeLoadText ∧ p.len = 4) ∨
    (i = .chunkBuild ∧ s.ctype ≠ none ∧ p.len.toNat ≤ s.cfg.maxData)

/-- MemRead itself faults when a cell of the range is unwritten, and in no other case. -/
theorem memRead_eq_fault_iff {a n : Nat} {k : List Byte → Result} {f : Fault} (hk : ∀ bytes, NoFault (k bytes)) :
    memRead s a n k = .fault f ↔ f = .uninitInput ∧ ∃ j < n, Memory.read s.ibuf (a + j) = none := by
  rw [← readRange_eq_none_iff, memRead]
  cases Memory.readRange s.ibuf a n with
  | none => simp [eq_comm]
  | some bytes => simp [hk bytes f]

theorem onInput_eq_fault_iff {k : List Byte → Result} {f : Fault} (hp : s.pend = some p)
    (hk : ∀ bytes, NoFault (k bytes)) : onInput s k = .fault f ↔ f = .uninitInput ∧ inputMissing s p := by
  constructor
  · intro h
    have hload : onInput s k = checkRange s p _ := whenPending_some hp
    obtain ⟨hrange, h⟩ := checkRange_fault (hload ▸ h)
    obtain ⟨hf, hcells⟩ := (memRead_eq_fault_iff hk).mp h
    exact ⟨hf, hrange, hcells⟩
  · rintro ⟨rfl, hmissing⟩
    exact onInput_of_missing hp hmissing

/-- With a chunk type and an admitted length, CHUNK_BUILD takes its data from its input range. -/
theorem exec_chunkBuild_of_some {ty : TypeBytes} (hp : s.pend = some p) (hty : s.ctype = some ty)
    (hmax : p.len.toNat ≤ s.cfg.maxData) :
    exec .chunkBuild s = onInput s fun d => finish { s with w := some ⟨ty, d⟩ } := by
  have hbuild : exec .chunkBuild s = checkRange s p _ := (whenPending_some hp).trans (needType_some hty)
  have hinput : onInput s (fun d => finish { s with w := some ⟨ty, d⟩ }) = checkRange s p _ := whenPending_some hp
  rw [hbuild, hinput, if_neg (by omega)]

/-- Such a command hands the bytes of its input range to a continuation that does not fault. -/
theorem exec_of_reachesMemRead (hp : s.pend = some p) (h : ReachesMemRead s p i) :
    ∃ k, exec i s = onInput s k ∧ ∀ bytes, NoFault (k bytes) := by
  rcases h with hi | ⟨rfl, hlen⟩ | ⟨rfl, hty, hmax⟩
  · simp only [List.mem_cons, List.not_mem_nil, or_false] at hi
    rcases hi with rfl | rfl | rfl | rfl
    · exact ⟨_, rfl, fun _ => noFault_next _⟩
    · exact ⟨_, rfl, fun _ => noFault_next _⟩
    · refine ⟨_, rfl, fun r => ?_⟩
      cases parseChunk s.cfg r <;> exact noFault_next _
    · refine ⟨_, rfl, fun r => ?_⟩
      cases parsePng s.cfg r <;> exact noFault_next _
  · exact ⟨_, exec_typeLoadText_of_len_four hp (by simp [hlen]), noFault_loadType⟩
  · obtain ⟨ty, hty⟩ := Option.ne_none_iff_exists'.mp hty
    exact ⟨_, exec_chunkBuild_of_some hp hty hmax, fun _ => noFault_next _⟩

/-- Every other command ends before it reads IBUF, or reads no IBUF. -/
theorem noFault_exec_of_not_reachesMemRead (hp : s.pend = some p) (h : ¬ ReachesMemRead s p i) : NoFault (exec i s) := by
  cases i with
  | crcBuf | crcChecksum | chunkParse | pngParse => exact absurd (.inl (by decide)) h
  | nop | crcInit | crcByte | crcFinal | crcTable | pngCount | errClear =>
    exact noFault_whenPending fun _ _ => noFault_next _
  | typeLoad => exact noFault_whenPending fun _ _ => noFault_loadType _
  | typeIsCritical | typeIsPublic | typeIsReservedValid | typeIsSafeToCopy | typeIsValid | typeBytes | typeText =>
    exact noFault_whenPending fun _ _ => noFault_needType fun _ _ => noFault_next _
  | chunkLength | chunkCrc | chunkType | chunkTypeText =>
    exact noFault_whenPending fun _ _ => noFault_needChunk fun _ => noFault_next _
  | chunkDataText =>
    exact noFault_whenPending fun _ _ => noFault_needChunk fun _ =>
      noFault_ite (noFault_checkOutput (noFault_next _)) (noFault_next _)
  | chunkSerialize =>
    exact noFault_whenPending fun _ _ => noFault_needChunk fun _ => noFault_checkOutput (noFault_next _)
  | pngSerialize => exact noFault_whenPending fun _ _ => noFault_checkOutput (noFault_next _)
  | pngAppend =>
    exact noFault_whenPending fun _ _ => noFault_needChunk fun _ => noFault_ite (noFault_next _) (noFault_next _)
  | pngFind | pngRemove =>
    refine noFault_whenPending fun p _ => ?_
    cases findFirst s.store (unpack4 p.key) <;> exact noFault_next _
  | pngGet =>
    refine noFault_whenPending fun p _ => ?_
    cases s.store[p.idx.toNat]? <;> exact noFault_next _
  | typeLoadText =>
    have hlen : p.len ≠ 4 := fun hlen => h (.inr (.inl ⟨rfl, hlen⟩))
    by_cases hout : inputOutside s p
    · rw [exec_typeLoadText_of_outside hp hout]; exact noFault_next _
    · rw [exec_typeLoadText_of_len_ne_four hp hout hlen]; exact noFault_next _
  | chunkBuild =>
    have hbuild : exec .chunkBuild s = needType s _ := whenPending_some hp
    rw [hbuild]
    refine noFault_needType fun ty hty => ?_
    have hmax : ¬ p.len.toNat ≤ s.cfg.maxData := fun hmax => h (.inr (.inr ⟨rfl, by simp [hty], hmax⟩))
    rw [if_pos (by omega)]
    exact noFault_checkRange (noFault_next _)

/-- A command's one fault is its MemRead over a range with an unwritten cell. -/
theorem exec_eq_fault_iff {f : Fault} (hp : s.pend = some p) :
    exec i s = .fault f ↔ f = .uninitInput ∧ inputMissing s p ∧ ReachesMemRead s p i := by
  by_cases hreach : ReachesMemRead s p i
  · obtain ⟨k, hexec, hk⟩ := exec_of_reachesMemRead hp hreach
    rw [hexec, onInput_eq_fault_iff hp hk]
    simp [hreach]
  · simp [hreach, noFault_exec_of_not_reachesMemRead hp hreach f]

end

/-! ## The faults of a step -/

section
variable {s : State} {f : Fault}

/-- With the reset input released, the engine's turn is the model fault UninitInput. `engineTurn_eq_fault_iff` ties it to
`engineTurn`. -/
def EngineFault (s : State) : Prop :=
  ∃ p i, s.pend = some p ∧ decode p.cw = .command i ∧ inputMissing s p ∧ ReachesMemRead s p i

theorem noFault_execIllegal : NoFault (execIllegal s) := noFault_whenPending fun _ _ => noFault_next _

theorem executeWord_eq_fault_iff {cw : Word} :
    executeWord s cw = .fault f ↔ ∃ i, decode cw = .command i ∧ exec i s = .fault f := by
  rcases executeWord_cases s cw with ⟨i, hi, he⟩ | ⟨why, hwhy, he⟩
  · simp [he, hi]
  · simp [he, hwhy, noFault_execIllegal f]

theorem engineTurn_eq_fault_iff :
    engineTurn s = .fault f ↔ f = .uninitInput ∧ s.resetIn = false ∧ EngineFault s := by
  unfold EngineFault
  cases hr : s.resetIn with
  | true => simp [engineTurn_of_reset hr]
  | false =>
    cases hp : s.pend with
    | none => simp [engineTurn_of_none hr hp]
    | some p =>
      rw [engineTurn_of_some hr hp, executeWord_eq_fault_iff]
      constructor
      · rintro ⟨i, hi, hexec⟩
        obtain ⟨hf, hreads⟩ := (exec_eq_fault_iff hp).mp hexec
        exact ⟨hf, rfl, p, i, rfl, hi, hreads⟩
      · rintro ⟨hf, -, _, i, ⟨⟩, hi, hreads⟩
        exact ⟨i, hi, (exec_eq_fault_iff hp).mpr ⟨hf, hreads⟩⟩

/-- A step faults by the host's access or by the engine's turn, taken with the event used up. -/
theorem step_eq_fault_iff (hok : s.cfg.ok = true) : step s = .fault f ↔
    (∃ a rest, s.events = .host a :: rest ∧ AccessFault { s with events := rest } a f) ∨
    ((s.events = [] ∨ ∃ rest, s.events = .engine :: rest) ∧ f = .uninitInput ∧ s.resetIn = false ∧ EngineFault s) := by
  cases hev : s.events with
  | nil => simp [step_of_idle hok hev, engineTurn_eq_fault_iff]
  | cons e rest =>
    rw [step_of_event hok hev]
    cases e with
    | host a => simp [eventTurn, hostAccess_eq_fault_iff]
    | engine =>
      have hturn : engineTurn { s with events := rest } = .fault f ↔
          f = .uninitInput ∧ s.resetIn = false ∧ EngineFault s := engineTurn_eq_fault_iff
      simpa [eventTurn] using hturn
    | assertReset | releaseReset => simp [eventTurn]

/-- The three faults of a host access are no fault of the engine's. -/
theorem step_eq_hostFault_iff (hok : s.cfg.ok = true) (hf : f ≠ .uninitInput) : step s = .fault f ↔
    ∃ a rest, s.events = .host a :: rest ∧ AccessFault { s with events := rest } a f := by
  simp [step_eq_fault_iff hok, hf]

theorem step_eq_uninitInput_iff (hok : s.cfg.ok = true) : step s = .fault .uninitInput ↔
    (s.events = [] ∨ ∃ rest, s.events = .engine :: rest) ∧ s.resetIn = false ∧ EngineFault s := by
  have hnot (rest : List Event) (a : Access) : ¬ AccessFault { s with events := rest } a .uninitInput := nofun
  simp [step_eq_fault_iff hok, hnot]

end

/-- Settles O55: a step faults by the host's access, in the cases of `AccessFault`, or by the engine's MemRead. -/
theorem faultsExactly : Obligations.FaultsExactly := by
  unfold Obligations.FaultsExactly
  intro s hok
  refine ⟨(step_eq_hostFault_iff hok (by decide)).trans ⟨?_, ?_⟩, (step_eq_hostFault_iff hok (by decide)).trans ⟨?_, ?_⟩,
    (step_eq_uninitInput_iff hok).trans and_left_comm, (step_eq_hostFault_iff hok (by decide)).trans ?_⟩
  · rintro ⟨a, rest, hev, hfault⟩
    cases hfault with
    | hazard hr hbusy hoff => exact ⟨hr, hbusy, _, _, rest, hoff, hev⟩
  · rintro ⟨hr, hbusy, off, v, rest, hoff, hev⟩
    exact ⟨_, rest, hev, .hazard hr hbusy hoff⟩
  · rintro ⟨a, rest, hev, hfault⟩
    cases hfault with
    | ibufUnwritten hr hoff hcell => exact ⟨hr, _, rest, .inl ⟨hoff, hcell, hev⟩⟩
    | obufUnwritten hr hbusy hoff hcell => exact ⟨hr, _, rest, .inr ⟨hbusy, hoff, hcell, hev⟩⟩
  · rintro ⟨hr, off, rest, ⟨hoff, hcell, hev⟩ | ⟨hbusy, hoff, hcell, hev⟩⟩
    · exact ⟨_, rest, hev, .ibufUnwritten hr hoff hcell⟩
    · exact ⟨_, rest, hev, .obufUnwritten hr hbusy hoff hcell⟩
  · simp only [accessFault_hostBusError_iff, busAdmits_eq_false_iff]

end Sys2Proof.Proofs
end

section
namespace Sys2Proof.Proofs

open Sys2Proof.Machine Sys2Proof.Claims Sys2Proof.Laws

/-! ## No execute step looks at the argument registers (R207) -/

/-- `s` with other values in the four argument registers. -/
def withArgs (a l k x : Word) (s : State) : State := { s with argAddr := a, argLen := l, argType := k, argIndex := x }

/-- `AnswersAlike f r r'`: `r` is a next state and `r'` the one `f` makes of it, or both are the same model fault.
Neither is a refusal. `answersAlike_exec` ties it to `exec`. -/
inductive AnswersAlike (f : State → State) : Result → Result → Prop
  | next (t : State) : AnswersAlike f (.next t) (.next (f t))
  | fault (e : Fault) : AnswersAlike f (.fault e) (.fault e)

theorem eq_mapNext_of_answersAlike {f : State → State} {r r' : Result} (h : AnswersAlike f r r') :
    r' = mapNext f r := by
  cases h <;> rfl

theorem next_or_fault_of_answersAlike {f : State → State} {r r' : Result} (h : AnswersAlike f r r') :
    (∃ t, r = .next t) ∨ ∃ e, r = .fault e := by
  cases h with
  | next t => exact .inl ⟨t, rfl⟩
  | fault e => exact .inr ⟨e, rfl⟩

section
variable {s : State} {p : Pending} {a l k x : Word} {r r' : Result}

theorem answersAlike_ite {f : State → State} {c : Prop} [Decidable c] {u u' : Result} (hr : AnswersAlike f r r')
    (hu : AnswersAlike f u u') : AnswersAlike f (if c then r else u) (if c then r' else u') := by
  split
  · exact hr
  · exact hu

theorem answersAlike_whenPending {g g' : Pending → Result} (hp : s.pend = some p)
    (hg : AnswersAlike (withArgs a l k x) (g p) (g' p)) :
    AnswersAlike (withArgs a l k x) (whenPending s g) (whenPending (withArgs a l k x s) g') := by
  rw [whenPending_some hp, whenPending_some (s := withArgs a l k x s) hp]
  exact hg

theorem answersAlike_checkRange (hr : AnswersAlike (withArgs a l k x) r r') :
    AnswersAlike (withArgs a l k x) (checkRange s p r) (checkRange (withArgs a l k x s) p r') :=
  answersAlike_ite hr (.next _)

theorem answersAlike_checkOutput {n : Nat} (hr : AnswersAlike (withArgs a l k x) r r') :
    AnswersAlike (withArgs a l k x) (checkOutput s n r) (checkOutput (withArgs a l k x s) n r') :=
  answersAlike_ite (.next _) hr

theorem answersAlike_memRead {b n : Nat} {g g' : List Byte → Result}
    (hg : ∀ bytes, AnswersAlike (withArgs a l k x) (g bytes) (g' bytes)) :
    AnswersAlike (withArgs a l k x) (memRead s b n g) (memRead (withArgs a l k x s) b n g') := by
  unfold memRead withArgs
  cases Memory.readRange s.ibuf b n with
  | none => exact .fault _
  | some bytes => exact hg bytes

theorem answersAlike_needType {g g' : TypeBytes → Result}
    (hg : ∀ ty, AnswersAlike (withArgs a l k x) (g ty) (g' ty)) :
    AnswersAlike (withArgs a l k x) (needType s g) (needType (withArgs a l k x s) g') := by
  cases hty : s.ctype with
  | none => rw [needType_none hty, needType_none (s := withArgs a l k x s) hty]; exact .next _
  | some ty => rw [needType_some hty, needType_some (s := withArgs a l k x s) hty]; exact hg ty

theorem answersAlike_needChunk {g g' : Chunk → Result} (hg : ∀ c, AnswersAlike (withArgs a l k x) (g c) (g' c)) :
    AnswersAlike (withArgs a l k x) (needChunk s g) (needChunk (withArgs a l k x s) g') := by
  cases hw : s.w with
  | none => rw [needChunk_none hw, needChunk_none (s := withArgs a l k x s) hw]; exact .next _
  | some c => rw [needChunk_some hw, needChunk_some (s := withArgs a l k x s) hw]; exact hg c

theorem answersAlike_loadType (bytes : List Byte) :
    AnswersAlike (withArgs a l k x) (loadType s bytes) (loadType (withArgs a l k x s) bytes) := by
  unfold loadType
  cases chunkTypeOf bytes <;> exact .next _

/-- With a command pending, every execute step answers a next state or a fault, and the argument registers change
no more of it than themselves. -/
theorem answersAlike_exec (a l k x : Word) (i : Instr) (hp : s.pend = some p) :
    AnswersAlike (withArgs a l k x) (exec i s) (exec i (withArgs a l k x s)) := by
  cases i with
  | nop | crcInit | crcByte | crcFinal | crcTable | pngCount | errClear =>
    exact answersAlike_whenPending hp (.next _)
  | crcBuf | crcChecksum =>
    exact answersAlike_whenPending hp <| answersAlike_checkRange <| answersAlike_memRead fun _ => .next _
  | typeLoad => exact answersAlike_whenPending hp (answersAlike_loadType _)
  | typeLoadText =>
    exact answersAlike_whenPending hp <| answersAlike_checkRange <|
      answersAlike_ite (.next _) <| answersAlike_memRead answersAlike_loadType
  | typeIsCritical | typeIsPublic | typeIsReservedValid | typeIsSafeToCopy | typeIsValid | typeBytes | typeText =>
    exact answersAlike_whenPending hp <| answersAlike_needType fun _ => .next _
  | chunkLength | chunkCrc | chunkType | chunkTypeText =>
    exact answersAlike_whenPending hp <| answersAlike_needChunk fun _ => .next _
  | chunkSerialize =>
    exact answersAlike_whenPending hp <| answersAlike_needChunk fun _ => answersAlike_checkOutput (.next _)
  | pngSerialize => exact answersAlike_whenPending hp <| answersAlike_checkOutput (.next _)
  | chunkBuild =>
    exact answersAlike_whenPending hp <| answersAlike_needType fun _ => answersAlike_checkRange <|
      answersAlike_ite (.next _) <| answersAlike_memRead fun _ => .next _
  | chunkDataText =>
    exact answersAlike_whenPending hp <| answersAlike_needChunk fun _ =>
      answersAlike_ite (answersAlike_checkOutput (.next _)) (.next _)
  | pngAppend =>
    exact answersAlike_whenPending hp <| answersAlike_needChunk fun _ => answersAlike_ite (.next _) (.next _)
  | chunkParse =>
    refine answersAlike_whenPending hp <| answersAlike_checkRange <| answersAlike_memRead fun bytes => ?_
    unfold withArgs
    cases parseChunk s.cfg bytes <;> exact .next _
  | pngParse =>
    refine answersAlike_whenPending hp <| answersAlike_checkRange <| answersAlike_memRead fun bytes => ?_
    unfold withArgs
    cases parsePng s.cfg bytes <;> exact .next _
  | pngFind | pngRemove =>
    refine answersAlike_whenPending hp ?_
    unfold withArgs
    cases findFirst s.store (unpack4 p.key) <;> exact .next _
  | pngGet =>
    refine answersAlike_whenPending hp ?_
    unfold withArgs
    cases s.store[p.idx.toNat]? <;> exact .next _

/-- The execute step is enabled only when PEND is not none (R205). -/
theorem exec_of_none (i : Instr) (hp : s.pend = none) : exec i s = .refused .noCommandPending := by
  have hrefused (g : Pending → Result) : whenPending s g = .refused .noCommandPending := by simp [whenPending, hp]
  cases i <;> exact hrefused _

theorem exec_withArgs (i : Instr) (s : State) (a l k x : Word) :
    exec i (withArgs a l k x s) = mapNext (withArgs a l k x) (exec i s) := by
  cases hp : s.pend with
  | none => rw [exec_of_none i hp, exec_of_none (s := withArgs a l k x s) i hp]; rfl
  | some p => exact eq_mapNext_of_answersAlike (answersAlike_exec a l k x i hp)

end

/-- Settles O9: a write to an argument register is `step_regWrite`, and no shared operation of the execute steps looks
at those registers. -/
theorem argumentWritesDoNotReachTheCommand : Obligations.ArgumentWritesDoNotReachTheCommand := by
  unfold Obligations.ArgumentWritesDoNotReachTheCommand
  refine ⟨fun s v rest hok hr => ⟨?_, ?_, ?_, ?_⟩, exec_withArgs⟩ <;> exact step_regWrite hok hr (by decide)

end Sys2Proof.Proofs
end

section
namespace Sys2Proof.Proofs

open Sys2Proof.Machine Sys2Proof.Claims Sys2Proof.Laws

/-! ## A host that keeps its duties meets no fault (R210) -/

section
variable {s : State} {p : Pending} {i : Instr}

theorem readsInput_of_reachesMemRead (h : ReachesMemRead s p i) : readsInput i = true := by
  rcases h with hi | ⟨rfl, -⟩ | ⟨rfl, -⟩
  · simp only [List.mem_cons, List.not_mem_nil, or_false] at hi
    rcases hi with rfl | rfl | rfl | rfl <;> rfl
  · rfl
  · rfl

/-- A filled input range leaves the engine no unwritten cell to read (R203). -/
theorem noFault_engineTurn (h : s.inputFilled) : NoFault (engineTurn s) := by
  intro f hf
  obtain ⟨-, -, p, i, hp, hdecode, ⟨-, j, hj, hcell⟩, hreach⟩ := engineTurn_eq_fault_iff.mp hf
  have hwritten := h p i hp hdecode (readsInput_of_reachesMemRead hreach) j hj
  simp [hcell] at hwritten

/-- The engine's turn is never a refusal: it executes only a command that is pending (R205). -/
theorem engineTurn_next_or_fault : (∃ t, engineTurn s = .next t) ∨ ∃ e, engineTurn s = .fault e := by
  cases hr : s.resetIn with
  | true => exact .inl ⟨_, engineTurn_of_reset hr⟩
  | false =>
    cases hp : s.pend with
    | none => exact .inl ⟨_, engineTurn_of_none hr hp⟩
    | some p =>
      rw [engineTurn_of_some hr hp]
      rcases executeWord_cases s p.cw with ⟨i, -, hexec⟩ | ⟨-, -, hexec⟩
      · rw [hexec]; exact next_or_fault_of_answersAlike (answersAlike_exec 0 0 0 0 i hp)
      · exact .inl ⟨_, hexec.trans (execIllegal_of_some hp)⟩

theorem exists_engineTurn_next (h : s.inputFilled) : ∃ t, engineTurn s = .next t :=
  engineTurn_next_or_fault.resolve_right fun ⟨e, he⟩ => noFault_engineTurn h e he

theorem exists_readCell_next {m : Memory} {off : Nat} (h : (m.read off).isSome = true) :
    ∃ t, readCell s m off = .next t := by
  obtain ⟨b, hb⟩ := Option.isSome_iff_exists.mp h
  exact ⟨_, readCell_some hb⟩

/-- A respectful access is one of the accesses the bus completes (R42 to R46, R208). -/
theorem exists_hostAccess_next {acc : Access} (h : acc.respectful s) : ∃ t, hostAccess s acc = .next t := by
  obtain ⟨hr, h⟩ := h
  cases acc with
  | read sp off width =>
    cases sp with
    | reg =>
      obtain ⟨rfl, hoff⟩ := regAdmits_iff.mp h
      exact ⟨_, hostAccess_regRead hr hoff⟩
    | ibuf =>
      obtain ⟨hadm, hcell⟩ := h
      obtain ⟨rfl, hoff⟩ := bufAdmits_iff.mp hadm
      rw [hostAccess_ibufRead hr hoff]
      exact exists_readCell_next hcell
    | obuf =>
      obtain ⟨hadm, hcell⟩ := h
      obtain ⟨rfl, hoff⟩ := bufAdmits_iff.mp hadm
      cases hbusy : s.busy with
      | true => exact ⟨_, hostAccess_obufRead_busy hr hoff hbusy⟩
      | false =>
        rw [hostAccess_obufRead_idle hr hoff hbusy]
        exact exists_readCell_next (hcell.resolve_left (by simp [hbusy]))
  | write sp off width v =>
    cases sp with
    | reg =>
      obtain ⟨rfl, hoff⟩ := regAdmits_iff.mp h
      exact ⟨_, hostAccess_regWrite hr hoff⟩
    | ibuf =>
      obtain ⟨hadm, hbusy⟩ := h
      obtain ⟨rfl, hoff⟩ := bufAdmits_iff.mp hadm
      exact ⟨_, hostAccess_ibufWrite_idle hr hoff hbusy⟩
    | obuf => exact h.elim

end

/-- Settles O56: by the next event. An access completes, the engine's turn finds its range written, and the reset input
asks for nothing. -/
theorem hazardFreeStepsComplete : Obligations.HazardFreeStepsComplete := by
  unfold Obligations.HazardFreeStepsComplete
  intro s hok h
  unfold State.respectful at h
  cases hev : s.events with
  | nil =>
    rw [hev] at h
    rw [step_of_idle hok hev]
    exact exists_engineTurn_next h
  | cons e rest =>
    rw [hev] at h
    rw [step_of_event hok hev]
    cases e with
    | host acc => exact exists_hostAccess_next (s := { s with events := rest }) h
    | engine => exact exists_engineTurn_next (s := { s with events := rest }) h
    | assertReset => exact ⟨_, rfl⟩
    | releaseReset => exact ⟨_, rfl⟩

end Sys2Proof.Proofs
end

section
namespace Sys2Proof.Proofs

open Sys2Proof.Machine Sys2Proof.Claims Sys2Proof.Laws

/-! ## Accept and execute (R205 to R208) -/

section
variable {s : State} {v : Word} {rest : List Event}

/-- With no event left the engine acts: `step_engine` is the same for a turn taken from the list. -/
theorem step_idle_engine {p : Pending} {i : Instr} (hok : s.cfg.ok = true) (hr : s.resetIn = false)
    (hp : s.pend = some p) (hdecode : decode p.cw = .command i) (hev : s.events = []) : step s = exec i s := by
  rw [step_of_idle hok hev, engineTurn_of_some hr hp, executeWord, hdecode]

theorem issueCommand_busy (h : s.busy = true) : issueCommand s v = { s with overrun := true } := if_pos h

end

/-- Settles O5: the engine's turn executes the pending word, and `executeWord` runs what it decodes to. -/
theorem engineTurnRunsTheDecodedCommand : Obligations.EngineTurnRunsTheDecodedCommand := by
  unfold Obligations.EngineTurnRunsTheDecodedCommand
  exact fun s p i hok hr hp hdecode => ⟨step_idle_engine hok hr hp hdecode, fun _ => step_engine hok hr hp hdecode⟩

/-- Settles O7: the accept does not look at the word. -/
theorem acceptLatchesTheOperands : Obligations.AcceptLatchesTheOperands := by
  unfold Obligations.AcceptLatchesTheOperands
  exact fun s v rest hok hr hbusy hev => step_cmdWrite ⟨hok, hr, hbusy, hev⟩

/-- Settles O8: offset 0 is CMD, and its write while BUSY = 1 is `issueCommand_busy`. -/
theorem commandWriteWhileBusyIsDropped : Obligations.CommandWriteWhileBusyIsDropped := by
  unfold Obligations.CommandWriteWhileBusyIsDropped
  intro s v rest hok hr hbusy hev
  exact (step_regWrite hok hr (by decide) hev).trans <|
    congrArg _ (issueCommand_busy (s := { s with events := rest }) hbusy)

/-- Settles O10: the bus admits the write, and BUSY = 1 makes it a hazard. -/
theorem ibufWriteWhileBusyIsAHazard : Obligations.IbufWriteWhileBusyIsAHazard := by
  unfold Obligations.IbufWriteWhileBusyIsAHazard
  intro s off v rest hok hr hbusy hoff hev
  exact (step_of_event hok hev).trans (hostAccess_ibufWrite_busy (s := { s with events := rest }) hr hoff hbusy)

/-! ## Reads while BUSY = 1 (R209) -/

section
variable {s : State} {off : Nat} {rest : List Event}

/-- An admitted register read is `readReg`, whatever BUSY. -/
theorem step_regRead_eq (hok : s.cfg.ok = true) (hr : s.resetIn = false) (hoff : off % 4 = 0 ∧ off < 0x100)
    (hev : s.events = .host (.read .reg off 32) :: rest) :
    step s = .next (readReg { s with events := rest } (regAt off)) :=
  (step_of_event hok hev).trans (hostAccess_regRead hr hoff)

theorem readDrawn_busy (h : s.busy = true) (v : Word) : readDrawn s v = s.deliverDraw .word := if_pos h

theorem readReg_status_busy (h : s.busy = true) :
    readReg s .status = s.deliverDraw fun d => .word (s.statusWhileBusy d) := if_pos h

/-- With BUSY = 1 and DONE = 0, bit 0 is 1, bit 1 and the reserved bits are 0, and every other bit is the draw's. -/
theorem statusWhileBusy_eq (hbusy : s.busy = true) (hdone : s.done = false) (d : Word) :
    s.statusWhileBusy d = 1 ||| (d &&& 0x00FFFF7C) := by
  simp [State.statusWhileBusy, flagBit, statusDrawMask, hbusy, hdone]

end

theorem drawnStatus_bits {v d : Word} (hv : v = 1 ||| (d &&& 0x00FFFF7C)) :
    v.getLsbD 0 = true ∧ v.getLsbD 1 = false ∧ v.getLsbD 7 = false ∧ v.extractLsb' 24 8 = 0 ∧
      v &&& 0x00FFFF7C = d &&& 0x00FFFF7C := by
  subst hv
  refine ⟨by simp, by simp, by simp, by simp [BitVec.extractLsb'_or, BitVec.extractLsb'_and], ?_⟩
  have hlow : (1 : Word) &&& 0x00FFFF7C = 0 := by decide
  rw [BitVec.and_or_distrib_right, hlow, BitVec.and_assoc, BitVec.and_self]
  exact BitVec.zero_or

/-- Settles O11: a drawn read takes the next draw, and the exact ones do not look at BUSY. -/
theorem readsWhileBusyAreDraws : Obligations.ReadsWhileBusyAreDraws := by
  unfold Obligations.ReadsWhileBusyAreDraws
  intro s rest hok hr hbusy hdone
  refine ⟨fun hev => ?_, fun off hoff hev => ?_, fun off hoff hev => ?_, fun ov hov hev => ?_,
    fun off b hoff hb hev => ?_⟩
  · refine ⟨s.statusWhileBusy (Config.draw s.draws), ?_, ?_⟩
    · exact (step_regRead_eq hok hr (by decide) hev).trans <|
        congrArg _ (readReg_status_busy (s := { s with events := rest }) hbusy)
    · exact drawnStatus_bits (statusWhileBusy_eq hbusy hdone _)
  · have hdrawn (v : Word) := readDrawn_busy (s := { s with events := rest }) hbusy v
    simp only [List.mem_cons, List.not_mem_nil, or_false] at hoff
    rcases hoff with rfl | rfl | rfl | rfl <;>
      exact (step_regRead_eq hok hr (by decide) hev).trans (congrArg _ (hdrawn _))
  · exact (step_of_event hok hev).trans (hostAccess_obufRead_busy (s := { s with events := rest }) hr hoff hbusy)
  · simp only [List.mem_cons, List.not_mem_nil, or_false] at hov
    rcases hov with rfl | rfl | rfl | rfl | rfl <;> exact step_regRead_eq hok hr (by simp) hev
  · have hread := (step_of_event hok hev).trans (hostAccess_ibufRead (s := { s with events := rest }) hr hoff)
    exact (step_of_readCell hread).1 b hb

end Sys2Proof.Proofs
end

section
namespace Sys2Proof.Proofs

open Sys2Proof.Machine Sys2Proof.Claims Sys2Proof.Laws

/-! ## Reset (R200, R201) -/

theorem resetReleased_of_reset {s : State} (hr : s.resetIn = true) :
    resetReleased s = { s.resetBlock with resetIn := false } := if_pos hr

/-- A held engine turn takes the reset state again, so the reset input stays as it was. -/
theorem resetBlock_of_reset {s : State} (hr : s.resetIn = true) : s.resetBlock = resetAsserted s := by
  simp [resetAsserted, State.resetBlock, hr]

/-- Settles O17: both edges and every turn in between are `State.resetBlock`, which sets every field of the block. -/
theorem resetTakesTheResetState : Obligations.ResetTakesTheResetState := by
  unfold Obligations.ResetTakesTheResetState
  intro s rest hok
  refine ⟨fun hev => ?_, fun hr hev => ?_, fun hr hev => ?_, fun acc hr hev => ?_⟩ <;>
    refine (step_of_event hok hev).trans ?_
  · rfl
  · exact congrArg _ (resetReleased_of_reset (s := { s with events := rest }) hr)
  · exact (engineTurn_of_reset (s := { s with events := rest }) hr).trans <|
      congrArg _ (resetBlock_of_reset (s := { s with events := rest }) hr)
  · exact hostAccess_inReset (s := { s with events := rest }) hr

/-- Settles O18: the reset state is one closed state, and its buffers list no cell. -/
theorem resetValues : Obligations.ResetValues := by
  unfold Obligations.ResetValues
  have hcells (a : Nat) : Memory.read State.reset.ibuf a = none ∧ Memory.read State.reset.obuf a = none :=
    ⟨read_nil a, read_nil a⟩
  exact ⟨by decide, rfl, rfl, rfl, rfl, rfl, rfl, rfl, rfl, rfl, rfl, rfl, rfl, rfl, rfl, rfl, rfl, rfl, rfl, rfl, rfl,
    rfl, rfl, by decide, hcells⟩

/-- The reset state is what `State.resetBlock` makes of itself, and a reset block meets the invariant. -/
theorem resetWith_inv {cfg : Params} (hok : cfg.ok = true) : (State.resetWith cfg).Inv :=
  resetBlock_inv (State.resetWith cfg) hok

/-- Settles O58: the parameters of the test vectors are admitted ones, so one lemma serves both parts. -/
theorem resetMeetsTheInvariant : Obligations.ResetMeetsTheInvariant := by
  unfold Obligations.ResetMeetsTheInvariant
  exact ⟨resetWith_inv (by decide), fun _ => resetWith_inv⟩

end Sys2Proof.Proofs
end
